-- ==== Sys2Proof/Word.lean ====
section
/-! DEFINITION. The word types of the block (00_scope.md R8, R11). -/

namespace Sys2Proof

/-- A register, a bus word or a command word: 64 bits (R8). -/
abbrev Word := BitVec 64

/-- An IEEE 754 binary64 value, held as its 64-bit pattern (R11). -/
abbrev F64 := BitVec 64

/-- A 24-bit word address of the host bus (R8, R71). -/
abbrev BusAddr := BitVec 24

end Sys2Proof
end

