-- ==== Sys2Proof/Config.lean ====
section
/-! DEFINITION. What one instance of the block fixes, and the values the spec leaves free
(00_scope.md R6, R7; 20_memory.md R78; 93_implementation_defined.md U5 to U10). -/

namespace Sys2Proof

/-- The binary64 operations whose result may be a NaN (R12). -/
inductive FloatOp where
  | add | sub | mul | div | sqrt
  deriving DecidableEq, Repr

/-- The cosine of R7 at an operand the instance's table does not list (log entry 5). -/
opaque Config.fcos : F64 → F64

/-- Ten to a power, R7, at an operand the instance's table does not list (log entry 5). -/
opaque Config.fpow10 : F64 → F64

/-- The pattern an operation answers where IEEE 754 says only "a NaN" (log entry 7). -/
opaque Config.nanResult : FloatOp → F64 → F64 → F64

/-- Bit number `n` of the entropy source of R7, counted over the machine's life (log entry 6). -/
opaque Config.entropyBit : Nat → Bool

/-- Sample number `n` of the Gaussian source of R7, counted over the machine's life (log entry 6). -/
opaque Config.gaussSample : Nat → F64

/-- The eight capacity parameters of R6. -/
structure Caps where
  bits : Nat
  text : Nat
  code : Nat
  chips : Nat
  samples : Nat
  syms : Nat
  dtext : Nat
  ns : Nat
  deriving DecidableEq, Repr

/-- The parameters of one instance (R6, R7, R78): the capacities; the operands at which its `fcos` and
`fpow10` are known; and where the platform places it. A list of points can hold any total function on the
2^64 patterns, so a statement about every `Params` is about every instance (log entry 5). -/
structure Params where
  caps : Caps
  cosPoints : List (F64 × F64)
  pow10Points : List (F64 × F64)
  /-- `BASE_ADDR`: the host address of the block's word address 0 (R78). -/
  baseAddr : Nat
  /-- How many host addresses lie between two neighbouring words of the block: 1 on a host that counts
  words, 8 on one that counts bytes (R78; log entry 18). -/
  addrStride : Nat
  deriving DecidableEq, Repr

/-- The reference instance of 95_test_vectors.md (DESIGN CHOICE for `State.reset`, log entry 4). -/
def Config.referenceCaps : Caps where
  bits := 1024
  text := 64
  code := 64
  chips := 4096
  samples := 32768
  syms := 1024
  dtext := 64
  ns := 256

/-- The instance `State.reset` describes: the reference capacities, no known point of `fcos` or
`fpow10`, host addresses that are the block's word addresses (DESIGN CHOICE, log entries 4, 5 and 18). -/
def Config.referenceParams : Params where
  caps := Config.referenceCaps
  cosPoints := []
  pow10Points := []
  baseAddr := 0
  addrStride := 1

end Sys2Proof
end

