-- ==== Sys2Proof/Syntax.lean ====
section
/-! DEFINITION. The commands of 30_encoding.md R91 with the options of R92, and the mnemonics of
spec/opcode_table.json. Every operand is an implicit register or region (R90), so a command's only
arguments are its options. -/

namespace Sys2Proof

/-- `SRC` of DECODE and COMPARE (R92). -/
inductive BitSource where
  | bits | result
  deriving DecidableEq, Repr

/-- `DST` of PN_GEN and `CODESEL` of SPREAD, DESPREAD and DEMOD (R92). -/
inductive CodeSel where
  | codeA | codeB
  deriving DecidableEq, Repr

/-- `PNSRC` of PN_GEN (R92). -/
inductive PnSource where
  | lfsr | entropy
  deriving DecidableEq, Repr

/-- `XSRC` of REFGEN, DESPREAD, DEMOD and DEMOD_WRONG (R92). -/
inductive WaveSel where
  | tx | rx
  deriving DecidableEq, Repr

/-- `GSRC` of MODULATE (R92). -/
inductive GaussSource where
  | internal | gnoise
  deriving DecidableEq, Repr

/-- The fifteen commands of R91. -/
inductive Instr where
  | nop
  | config
  | pnSeed
  | encode
  | decode (src : BitSource)
  | checksum
  | compare (src : BitSource)
  | pnGen (dst : CodeSel) (pnsrc : PnSource)
  | spread (codesel : CodeSel)
  | modulate (noise : Bool) (intf : Bool) (diag : Bool) (gsrc : GaussSource)
  | refgen (xsrc : WaveSel)
  | despread (codesel : CodeSel) (xsrc : WaveSel)
  | correlate
  | demod (codesel : CodeSel) (xsrc : WaveSel)
  | demodWrong (xsrc : WaveSel)
  deriving DecidableEq, Repr

/-- The mnemonic of a command, as R91 spells it. -/
def Instr.mnemonic : Instr → String
  | .nop => "NOP"
  | .config => "CONFIG"
  | .pnSeed => "PN_SEED"
  | .encode => "ENCODE"
  | .decode _ => "DECODE"
  | .checksum => "CHECKSUM"
  | .compare _ => "COMPARE"
  | .pnGen _ _ => "PN_GEN"
  | .spread _ => "SPREAD"
  | .modulate _ _ _ _ => "MODULATE"
  | .refgen _ => "REFGEN"
  | .despread _ _ => "DESPREAD"
  | .correlate => "CORRELATE"
  | .demod _ _ => "DEMOD"
  | .demodWrong _ => "DEMOD_WRONG"

end Sys2Proof
end

