-- ==== Sys2Proof/WellFormed.lean ====
section
/-! DEFINITION. The checks on what comes from outside: the parameters of an instance (00_scope.md R6,
20_memory.md R78) and a command word (30_encoding.md R95, R93). An `Instr` carries only enumerated options, so no term of it can
be ill formed: what can be is the word, and `legalWord` is the check on it, written from the match and
mask table of R95 alone and not from the decoder. -/

namespace Sys2Proof

/-- The bounds of R6: each capacity at least its lower bound and at most 2^20. -/
abbrev Caps.WellFormed (c : Caps) : Prop :=
  (96 ≤ c.bits ∧ c.bits ≤ 2 ^ 20) ∧ c.text ≤ 2 ^ 20 ∧ (1 ≤ c.code ∧ c.code ≤ 2 ^ 20) ∧
    (1 ≤ c.chips ∧ c.chips ≤ 2 ^ 20) ∧ (1 ≤ c.samples ∧ c.samples ≤ 2 ^ 20) ∧
    (96 ≤ c.syms ∧ c.syms ≤ 2 ^ 20) ∧ c.dtext ≤ 2 ^ 20 ∧ (1 ≤ c.ns ∧ c.ns ≤ 2 ^ 20)

/-- The parameters of an instance are well formed: the bounds of R6, and words at host addresses of their
own (20_memory.md R78). -/
abbrev Params.WellFormed (p : Params) : Prop :=
  p.caps.WellFormed ∧ 1 ≤ p.addrStride

/-- One row of spec/opcode_table.json: the mask and the match of R95. -/
structure OpcodeRow where
  mnemonic : String
  mask : Word
  pattern : Word
  deriving DecidableEq, Repr

/-- The fifteen rows, with the masks R95 lists. -/
def opcodeRows : List OpcodeRow :=
  [⟨"NOP", 0xFFFFFFFFFFFFFFFF, 0x00⟩, ⟨"CONFIG", 0xFFFFFFFFFFFFFFFF, 0x01⟩,
   ⟨"PN_SEED", 0xFFFFFFFFFFFFFFFF, 0x02⟩, ⟨"ENCODE", 0xFFFFFFFFFFFFFFFF, 0x10⟩,
   ⟨"DECODE", 0xFFFFFFFFFFFFFEFF, 0x11⟩, ⟨"CHECKSUM", 0xFFFFFFFFFFFFFFFF, 0x12⟩,
   ⟨"COMPARE", 0xFFFFFFFFFFFFFEFF, 0x13⟩, ⟨"PN_GEN", 0xFFFFFFFFFFFFFCFF, 0x20⟩,
   ⟨"SPREAD", 0xFFFFFFFFFFFFFEFF, 0x21⟩, ⟨"MODULATE", 0xFFFFFFFFFFFFF0FF, 0x30⟩,
   ⟨"REFGEN", 0xFFFFFFFFFFFFFDFF, 0x31⟩, ⟨"DESPREAD", 0xFFFFFFFFFFFFFCFF, 0x40⟩,
   ⟨"CORRELATE", 0xFFFFFFFFFFFFFFFF, 0x41⟩, ⟨"DEMOD", 0xFFFFFFFFFFFFFCFF, 0x42⟩,
   ⟨"DEMOD_WRONG", 0xFFFFFFFFFFFFFDFF, 0x43⟩]

/-- `w` spells the row's mnemonic (R95). -/
def OpcodeRow.spells (r : OpcodeRow) (w : Word) : Bool :=
  w &&& r.mask == r.pattern

/-- `w` is the encoding of some command (R95). -/
def legalWord (w : Word) : Bool :=
  opcodeRows.any fun r => r.spells w

end Sys2Proof
end

