-- ==== Sys2Proof/Decode.lean ====
section
/-! DEFINITION. The decoder and the encoder of command words (30_encoding.md R90 to R95). -/

namespace Sys2Proof

/-- Why a command word is illegal (R93), in the order the checks are made (R233). -/
inductive DecodeError where
  /-- (a) the opcode is not in R91. -/
  | reservedOpcode
  /-- (b) `RSV`, bits 63:16, is not 0. -/
  | rsvNonzero
  /-- (c) a reserved option bit of the opcode is 1. -/
  | reservedOption
  deriving DecidableEq, Repr

/-- `OPCODE`, word bits 7:0 (R90). -/
def opcodeField (w : Word) : BitVec 8 :=
  w.extractLsb' 0 8

/-- `OPT`, word bits 15:8 (R90). -/
def optField (w : Word) : BitVec 8 :=
  w.extractLsb' 8 8

/-- `RSV`, word bits 63:16 (R90). -/
def rsvField (w : Word) : BitVec 48 :=
  w.extractLsb' 16 48

/-- A `SRC` bit (R92). -/
def bitSourceOf (b : Bool) : BitSource :=
  if b then .result else .bits

/-- A `DST` or `CODESEL` bit (R92). -/
def codeSelOf (b : Bool) : CodeSel :=
  if b then .codeB else .codeA

/-- A `PNSRC` bit (R92). -/
def pnSourceOf (b : Bool) : PnSource :=
  if b then .entropy else .lfsr

/-- An `XSRC` bit (R92). -/
def waveSelOf (b : Bool) : WaveSel :=
  if b then .rx else .tx

/-- A `GSRC` bit (R92). -/
def gaussSourceOf (b : Bool) : GaussSource :=
  if b then .gnoise else .internal

/-- The opcode map of R91 with the option table of R92: the option bits the opcode has, and the command
its options select. `none` for a reserved opcode. -/
def commandOf (opcode opt : BitVec 8) : Option (BitVec 8 × Instr) :=
  let o := fun j : Nat => opt.getLsbD j
  match opcode.toNat with
  | 0x00 => some (0x00, .nop)
  | 0x01 => some (0x00, .config)
  | 0x02 => some (0x00, .pnSeed)
  | 0x10 => some (0x00, .encode)
  | 0x11 => some (0x01, .decode (bitSourceOf (o 0)))
  | 0x12 => some (0x00, .checksum)
  | 0x13 => some (0x01, .compare (bitSourceOf (o 0)))
  | 0x20 => some (0x03, .pnGen (codeSelOf (o 0)) (pnSourceOf (o 1)))
  | 0x21 => some (0x01, .spread (codeSelOf (o 0)))
  | 0x30 => some (0x0F, .modulate (o 0) (o 1) (o 2) (gaussSourceOf (o 3)))
  | 0x31 => some (0x02, .refgen (waveSelOf (o 1)))
  | 0x40 => some (0x03, .despread (codeSelOf (o 0)) (waveSelOf (o 1)))
  | 0x41 => some (0x00, .correlate)
  | 0x42 => some (0x03, .demod (codeSelOf (o 0)) (waveSelOf (o 1)))
  | 0x43 => some (0x02, .demodWrong (waveSelOf (o 1)))
  | _ => none

/-- The decoder: total on every word, rejecting by name in the order of R233. -/
def decode (w : Word) : Except DecodeError Instr :=
  match commandOf (opcodeField w) (optField w) with
  | none => .error .reservedOpcode
  | some (options, i) =>
    if rsvField w ≠ 0 then .error .rsvNonzero
    else if optField w &&& ~~~options ≠ 0 then .error .reservedOption
    else .ok i

/-- The bit a `SRC` value is encoded as (R92). -/
def BitSource.bit : BitSource → Bool
  | .bits => false
  | .result => true

/-- The bit a `DST` or `CODESEL` value is encoded as (R92). -/
def CodeSel.bit : CodeSel → Bool
  | .codeA => false
  | .codeB => true

/-- The bit a `PNSRC` value is encoded as (R92). -/
def PnSource.bit : PnSource → Bool
  | .lfsr => false
  | .entropy => true

/-- The bit an `XSRC` value is encoded as (R92). -/
def WaveSel.bit : WaveSel → Bool
  | .tx => false
  | .rx => true

/-- The bit a `GSRC` value is encoded as (R92). -/
def GaussSource.bit : GaussSource → Bool
  | .internal => false
  | .gnoise => true

/-- Word bit `8 + j` holding option `OPT[j]` (R90). -/
def optBit (j : Nat) (b : Bool) : Word :=
  if b then 1#64 <<< (8 + j) else 0

/-- The encoder, from the opcodes of R91 and the option bits of R92. -/
def encode : Instr → Word
  | .nop => 0x00
  | .config => 0x01
  | .pnSeed => 0x02
  | .encode => 0x10
  | .decode src => 0x11 ||| optBit 0 src.bit
  | .checksum => 0x12
  | .compare src => 0x13 ||| optBit 0 src.bit
  | .pnGen dst pnsrc => 0x20 ||| optBit 0 dst.bit ||| optBit 1 pnsrc.bit
  | .spread codesel => 0x21 ||| optBit 0 codesel.bit
  | .modulate noise intf diag gsrc =>
      0x30 ||| optBit 0 noise ||| optBit 1 intf ||| optBit 2 diag ||| optBit 3 gsrc.bit
  | .refgen xsrc => 0x31 ||| optBit 1 xsrc.bit
  | .despread codesel xsrc => 0x40 ||| optBit 0 codesel.bit ||| optBit 1 xsrc.bit
  | .correlate => 0x41
  | .demod codesel xsrc => 0x42 ||| optBit 0 codesel.bit ||| optBit 1 xsrc.bit
  | .demodWrong xsrc => 0x43 ||| optBit 1 xsrc.bit

/-- An instruction is well formed when the word that spells it is legal (R95). -/
def Instr.wf (i : Instr) : Bool :=
  legalWord (Sys2Proof.encode i)

/-- The command word a table row's bits are: the low `nbits` bits of `w`, every other bit 0. -/
def tableWord (nbits w : Nat) : Word :=
  BitVec.ofNat 64 (w % 2 ^ nbits)

/-- What the decoder reads from a table row's bits. -/
def decodeTableWord (nbits w : Nat) : Option Instr :=
  match decode (tableWord nbits w) with
  | .ok i => some i
  | .error _ => none

end Sys2Proof
end

