-- ==== Sys2Proof/Machine/State.lean ====
section
/-! DEFINITION. The state of one instance of the block (10_state.md), the reasons a step can stop
(60_exceptions.md R240), and the state after reset (R48). -/

namespace Sys2Proof.Machine

/-- The fifteen buffer regions of R40. -/
inductive Region where
  | bits | text | codeA | codeB | chips | tx | ref | intf | gnoise | rx | desp | corr | result | dtext
  | splus
  deriving DecidableEq, Repr

/-- The place of a region in the vectors of State: its number of R40, less one. -/
def Region.idx : Region → Fin 15
  | .bits => 0
  | .text => 1
  | .codeA => 2
  | .codeB => 3
  | .chips => 4
  | .tx => 5
  | .ref => 6
  | .intf => 7
  | .gnoise => 8
  | .rx => 9
  | .desp => 10
  | .corr => 11
  | .result => 12
  | .dtext => 13
  | .splus => 14

/-- One written element of a region: its index and its stored bits, zero-extended (R41). The block's
smallest addressable unit is the 64-bit word (R73), so a cell holds a word (log entry 1). -/
abbrev Cell := Nat × Word

/-- A region's written elements, indices strictly rising; an unlisted index is unwritten (R42). -/
abbrev Buffer := List Cell

/-- The buffer memory: one buffer for each region (R40). -/
abbrev Memory := Vector Buffer 15

/-- The control and status registers of R22. `FIELD[k]` and `DFIELD[k]` are numbered from 0 here:
`field k` is `FIELD[k + 1]`. -/
inductive Csr where
  | id | ctrl | status | errcode | cmd
  | fs | fc | sf | tsym | snrDb | amp | phase | seed
  | tc | ns | nss | lfsr
  | len (r : Region)
  | cap (r : Region)
  | frameKind
  | field (k : Fin 12)
  | dfield (k : Fin 12)
  | cksum | cksumSum | mismatch
  | diagNormSig | diagNormNoise | diagScale
  deriving DecidableEq, Repr

/-- One input of the block (R20): an access of the host at an address of its own address space (R71, R78),
the engine being given its turn, or reset. -/
inductive Event where
  /-- The host reads at an address: `BusRead` of the word that lies there (R71, R78). -/
  | hostRead (addr : Nat)
  /-- The host writes at an address: `BusWrite` of the word that lies there (R71, R78). -/
  | hostWrite (addr : Nat) (data : Word)
  /-- The engine takes its step now if BUSY = 1 (R236, R275). -/
  | engine
  /-- The reset input is asserted and released (R260). -/
  | reset
  deriving DecidableEq, Repr

/-- What lies outside the block (the MODEL's own fields, log entries 2, 6 and 10): the inputs still to
come, oldest first; the word the last completed bus read returned; the values the two draw sources of
R7 are to supply, next first; how many values each has supplied. -/
structure Env where
  agenda : List Event
  rdata : Option Word
  entropyIn : List Bool
  gaussIn : List F64
  entropyCount : Nat
  gaussCount : Nat
  deriving DecidableEq, Repr

/-- The state of the block: every register and region of 10_state.md, the instance's parameters (R6,
R7) and the environment. -/
structure State where
  /-- `CTRL.IRQ_EN` (R25). -/
  irqEn : Bool
  /-- `STATUS.BUSY` (R26). -/
  busy : Bool
  /-- `STATUS.DONE` (R26). -/
  done : Bool
  /-- `STATUS.ERR` (R26). -/
  err : Bool
  /-- `STATUS.CMP_OK` (R26). -/
  cmpOk : Bool
  /-- `STATUS.CFG_VALID` (R26, R32). -/
  cfgValid : Bool
  /-- `ERRCODE` (R27). -/
  errcode : Word
  /-- The latched command word, `CMD` (R28). -/
  cmd : Word
  /-- `FS` (R29). -/
  fs : F64
  /-- `FC` (R29). -/
  fc : F64
  /-- `SF`, signed (R30). -/
  sf : Word
  /-- `TSYM` (R29). -/
  tsym : F64
  /-- `SNR_DB` (R29). -/
  snrDb : F64
  /-- `AMP` (R29). -/
  amp : F64
  /-- `PHASE` (R29). -/
  phase : F64
  /-- `SEED` (R31). -/
  seed : BitVec 16
  /-- `TC` (R32). -/
  tc : F64
  /-- `NS` (R32; log entry 9). -/
  ns : Word
  /-- `NSS` (R32). -/
  nss : Word
  /-- `LFSR` (R35). -/
  lfsr : BitVec 16
  /-- `LEN[1]` to `LEN[15]` (R34). -/
  len : Vector Nat 15
  /-- `FRAME_KIND` bit 0: text frame (R36). -/
  frameKind : Bool
  /-- `FIELD[1]` to `FIELD[12]`, signed (R37). -/
  field : Vector Word 12
  /-- `DFIELD[1]` to `DFIELD[12]`, sign-extended (R38). -/
  dfield : Vector Word 12
  /-- `CKSUM` (R39). -/
  cksum : BitVec 8
  /-- `CKSUM_SUM` (R39). -/
  cksumSum : BitVec 12
  /-- `MISMATCH` (R39). -/
  mismatch : BitVec 13
  /-- `DIAG_NORM_SIG` (R43). -/
  diagNormSig : F64
  /-- `DIAG_NORM_NOISE` (R43). -/
  diagNormNoise : F64
  /-- `DIAG_SCALE` (R43). -/
  diagScale : F64
  /-- Regions 1 to 15 (R40). -/
  mem : Memory
  /-- The instance's parameters (R6, R7). -/
  params : Params
  /-- The environment (MODEL). -/
  env : Env
  deriving DecidableEq, Repr

/-- The model faults of R240: the machine stops with the reason the spec names. -/
inductive Fault where
  /-- A host access that the hardware answers with a bus error. Raised by the host's transactions
  (R23, R34, R72), and by a host address inside the block's range at which no word lies (log entry 18). Safe:
  the hardware goes on with its state unchanged, the model stops. -/
  | hostBusError
  /-- A read of a buffer element nothing has written, by the host or by a command (R42, R70). Safe: the
  hardware returns some value, the model stops. -/
  | uninitRead
  /-- A host access other than a read of STATUS or ID while BUSY = 1 (R262). Safe: what the hardware
  does is unspecified, the model stops. -/
  | busyHazard
  deriving DecidableEq, Repr

/-- Why a step has no meaning. -/
inductive Refusal where
  /-- A command that the model gives no meaning yet. No arm of `exec` answers it: every command of the
  opcode table has its meaning. Safe: the model stops. -/
  | notModelled (mnemonic : String)
  deriving DecidableEq, Repr

/-- The environment in which nothing is pending and nothing has been drawn. -/
def Env.empty : Env where
  agenda := []
  rdata := none
  entropyIn := []
  gaussIn := []
  entropyCount := 0
  gaussCount := 0

/-- The registers and regions at the reset values of R48, for an instance with parameters `p` in the
environment `e`. -/
def State.resetWith (p : Params) (e : Env) : State where
  irqEn := false
  busy := false
  done := false
  err := false
  cmpOk := false
  cfgValid := false
  errcode := 0
  cmd := 0
  fs := 0
  fc := 0
  sf := 0
  tsym := 0
  snrDb := 0
  amp := 0x3FF0000000000000
  phase := 0
  seed := 0xACE1
  tc := 0
  ns := 0
  nss := 0
  lfsr := 0xACE1
  len := Vector.replicate 15 0
  frameKind := false
  field := Vector.replicate 12 0
  dfield := Vector.replicate 12 0
  cksum := 0
  cksumSum := 0
  mismatch := 0
  diagNormSig := 0
  diagNormNoise := 0
  diagScale := 0
  mem := Vector.replicate 15 []
  params := p
  env := e

/-- The machine right after reset (R48, R260), for the reference instance (DESIGN CHOICE, log entry 4)
with nothing pending. -/
def State.reset : State :=
  State.resetWith Config.referenceParams Env.empty

end Sys2Proof.Machine
end

