-- ==== Sys2Proof/Machine/Ops.lean ====
section
/-! DEFINITION. The operations every command is written over: the region table (10_state.md R40, R41),
reading and writing buffers (20_memory.md R70), the errors (60_exceptions.md R230 to R234), issuing and
completing a command, and taking an error (R236, R237, R239). -/

namespace Sys2Proof.Machine

/-- The number of a region (R40, R98). -/
def Region.num (r : Region) : Nat :=
  r.idx.val + 1

/-- The region with a number, `none` for 0 (the registers) and for what is no region (R40). -/
def regionOf : Nat → Option Region
  | 1 => some .bits
  | 2 => some .text
  | 3 => some .codeA
  | 4 => some .codeB
  | 5 => some .chips
  | 6 => some .tx
  | 7 => some .ref
  | 8 => some .intf
  | 9 => some .gnoise
  | 10 => some .rx
  | 11 => some .desp
  | 12 => some .corr
  | 13 => some .result
  | 14 => some .dtext
  | 15 => some .splus
  | _ => none

/-- How many bits an element of the region stores (R40, R41): 1 for Bit and Bip, 32 for CodePoint, 8 for
Byte, 64 for Sample. -/
def Region.width : Region → Nat
  | .bits => 1
  | .text => 32
  | .codeA => 1
  | .codeB => 1
  | .chips => 1
  | .tx => 64
  | .ref => 64
  | .intf => 64
  | .gnoise => 64
  | .rx => 64
  | .desp => 64
  | .corr => 64
  | .result => 1
  | .dtext => 8
  | .splus => 64

/-- The capacity of a region (R40, R33). -/
def Caps.of (c : Caps) : Region → Nat
  | .bits => c.bits
  | .text => c.text
  | .codeA => c.code
  | .codeB => c.code
  | .chips => c.chips
  | .tx => c.samples
  | .ref => c.samples
  | .intf => c.samples
  | .gnoise => c.samples
  | .rx => c.samples
  | .desp => c.samples
  | .corr => c.syms
  | .result => c.syms
  | .dtext => c.dtext
  | .splus => c.ns

/-- `CAP[r]` (R33). -/
def State.cap (s : State) (r : Region) : Nat :=
  Caps.of s.params.caps r

/-- `LEN[r]` (R34). -/
def State.lenOf (s : State) (r : Region) : Nat :=
  s.len[r.idx]

/-- The bits of a bus word that an element of the region keeps (R41). -/
def storedBits (r : Region) (w : Word) : Word :=
  BitVec.ofNat 64 (w.toNat % 2 ^ r.width)

/-- The element at an index, `none` when unwritten (R42). -/
def bufRead : Buffer → Nat → Option Word
  | [], _ => none
  | (j, w) :: rest, i => if j = i then some w else bufRead rest i

/-- Record an element (R70), keeping the indices strictly rising. -/
def bufWrite : Buffer → Nat → Word → Buffer
  | [], i, v => [(i, v)]
  | (j, w) :: rest, i, v =>
    if i < j then (i, v) :: (j, w) :: rest
    else if i = j then (i, v) :: rest
    else (j, w) :: bufWrite rest i v

/-- The `n` elements at indices `i`, `i + 1`, …, read off a buffer whose first cell is the one at `i`;
`none` when one of them is unwritten. -/
def bufTake : Buffer → Nat → Nat → Option (List Word)
  | _, _, 0 => some []
  | [], _, _ + 1 => none
  | (j, w) :: rest, i, n + 1 =>
    if j = i then (bufTake rest (i + 1) n).map (w :: ·) else none

/-- The cells of a sequence laid out from index `i`. -/
def cellsFrom : Nat → List Word → Buffer
  | _, [] => []
  | i, w :: ws => (i, w) :: cellsFrom (i + 1) ws

/-- Overwrite a region from index 0 with a sequence; what lies at or above its length stays (R264). -/
def bufOverwrite (b : Buffer) (ws : List Word) : Buffer :=
  cellsFrom 0 ws ++ b.filter fun c => decide (ws.length ≤ c.1)

/-- The indices of a buffer rise strictly, so equal buffers are equal lists. -/
def Buffer.sorted : Buffer → Bool
  | [] => true
  | [_] => true
  | (i, _) :: (j, w) :: rest => decide (i < j) && Buffer.sorted ((j, w) :: rest)

/-- The canonical form of the buffer memory. -/
def Memory.wf (m : Memory) : Bool :=
  m.toList.all Buffer.sorted

/-- The buffer of a region. -/
def Memory.buffer (m : Memory) (r : Region) : Buffer :=
  m[r.idx]

/-- The memory with the buffer of one region replaced. -/
def Memory.setBuffer (m : Memory) (r : Region) (b : Buffer) : Memory :=
  m.set r.idx b

/-- Element `i` of region `r`, `none` when unwritten: `MemRead` (R70). -/
def State.elem (s : State) (r : Region) (i : Nat) : Option Word :=
  bufRead (s.mem.buffer r) i

/-- Write element `i` of region `r`: `MemWrite` (R70). `LEN[r]` does not change. -/
def State.putElem (s : State) (r : Region) (i : Nat) (v : Word) : State :=
  { s with mem := s.mem.setBuffer r (bufWrite (s.mem.buffer r) i v) }

/-- Write `LEN[r]` (R34). -/
def State.putLen (s : State) (r : Region) (n : Nat) : State :=
  { s with len := s.len.set r.idx n }

/-- Write a whole output sequence into a region from index 0, and its `LEN` (R264). -/
def State.putSeq (s : State) (r : Region) (ws : List Word) : State :=
  { s with
    mem := s.mem.setBuffer r (bufOverwrite (s.mem.buffer r) ws)
    len := s.len.set r.idx ws.length }

/-- The errors a command can complete with (R230, R234). -/
inductive CmdError where
  /-- RangeError: `FIELD[k]` is out of range (R231). -/
  | range (k : Nat)
  /-- EncodingError: character `j` is not ASCII (R231). -/
  | encoding (j : Nat)
  /-- LengthError with its detail and the offending length (R234). -/
  | length (detail : Nat) (n : Nat)
  /-- ConfigError with its detail (R234). -/
  | config (detail : Nat)
  /-- IllegalCommand with its detail and the word's bits 15:0 (R233). -/
  | illegal (detail : Nat) (low : Nat)
  /-- CapacityError: the region that is too small and the length needed (R232). -/
  | capacity (region : Region) (needed : Int)
  deriving DecidableEq, Repr

/-- `ERRCODE.CODE` (R230). -/
def CmdError.code : CmdError → Nat
  | .range _ => 1
  | .encoding _ => 2
  | .length _ _ => 3
  | .config _ => 4
  | .illegal _ _ => 5
  | .capacity _ _ => 6

/-- `ERRCODE.DETAIL` (R234). -/
def CmdError.detail : CmdError → Nat
  | .range _ => 0
  | .encoding _ => 0
  | .length d _ => d
  | .config d => d
  | .illegal d _ => d
  | .capacity r _ => r.num

/-- `ERRCODE.INDEX` before it is cut to 32 bits (R234). -/
def CmdError.index : CmdError → Int
  | .range k => k
  | .encoding j => j
  | .length _ n => n
  | .config _ => 0
  | .illegal _ low => low
  | .capacity _ n => n

/-- The `ERRCODE` word of an error (R27, R236): 16 zero bits, INDEX, DETAIL, CODE. -/
def CmdError.word (e : CmdError) : Word :=
  0#16 ++ BitVec.ofInt 32 e.index ++ BitVec.ofNat 8 e.detail ++ BitVec.ofNat 8 e.code

/-- Why a command does not complete without error: it raises an error (R236), or the model stops (R240). -/
inductive Stop where
  | raise (e : CmdError)
  | fault (f : Fault)
  deriving DecidableEq, Repr

/-- What a command rule computes: a value, an error or a model fault (R15, R236). -/
abbrev CmdM := Except Stop

/-- `if c: raise e` (R14). -/
def raiseIf (c : Bool) (e : CmdError) : CmdM Unit :=
  if c then .error (.raise e) else .ok ()

/-- Read the elements 0 to `n - 1` of a region; one that is unwritten is `UninitRead` (R70, R42). -/
def readSeq (s : State) (r : Region) (n : Nat) : CmdM (List Word) :=
  match bufTake (s.mem.buffer r) 0 n with
  | some ws => .ok ws
  | none => .error (.fault .uninitRead)

/-- `LEN[r]` elements of a region: its current sequence (R34). -/
def readAll (s : State) (r : Region) : CmdM (List Word) :=
  readSeq s r (s.lenOf r)

/-- `ConfigError 8` unless the derived configuration is current (R235). -/
def needConfig (s : State) : CmdM Unit :=
  raiseIf (!s.cfgValid) (.config 8)

/-- Issue a command: latch its word, set BUSY, clear DONE, ERR and ERRCODE (R236). -/
def issue (w : Word) (s : State) : State :=
  { s with cmd := w, busy := true, done := false, err := false, errcode := 0 }

/-- Complete a command without error: BUSY to 0, DONE to 1, ERR to 0 (R236, R45, R110). -/
def completeOk (s : State) : State :=
  { s with busy := false, done := true, err := false }

/-- TAKE AN ERROR: the block's whole exception entry (R236). ERRCODE records it, ERR is set, BUSY falls,
DONE rises, and nothing else changes (R237). -/
def takeError (e : CmdError) (s : State) : State :=
  { s with errcode := e.word, err := true, busy := false, done := true }

/-- RETURN FROM AN ERROR: a host write to STATUS clears DONE where bit 1 is 1 and ERR where bit 2 is 1,
and nothing else (R26, R239). -/
def ackStatus (w : Word) (s : State) : State :=
  { s with done := s.done && !w.getLsbD 1, err := s.err && !w.getLsbD 2 }

/-- Complete a command (R236): the writes of a rule that succeeds are all in its result state, those of one
that raises are none (R237). -/
def complete (s : State) : CmdM State → Host.Outcome State Fault Refusal
  | .ok t => .next (completeOk t)
  | .error (.raise e) => .next (takeError e s)
  | .error (.fault f) => .fault f

/-- The detail of IllegalCommand for each reason (R233). -/
def illegalDetail : DecodeError → Nat
  | .reservedOpcode => 1
  | .reservedOption => 2
  | .rsvNonzero => 3

/-- Draw `n` bits from the entropy source (R7): those the environment supplies, then free ones (log entry
6); and the state with them drawn. -/
def drawEntropy (n : Nat) (s : State) : List Bool × State :=
  ((List.range n).map fun i =>
      (s.env.entropyIn[i]?).getD (Config.entropyBit (s.env.entropyCount + i)),
    { s with env := { s.env with
        entropyIn := s.env.entropyIn.drop n
        entropyCount := s.env.entropyCount + n } })

/-- `GaussDraw(n)` (R7): the samples the environment supplies, then free ones (log entry 6); and the state
with them drawn. -/
def drawGauss (n : Nat) (s : State) : List F64 × State :=
  ((List.range n).map fun i =>
      (s.env.gaussIn[i]?).getD (Config.gaussSample (s.env.gaussCount + i)),
    { s with env := { s.env with
        gaussIn := s.env.gaussIn.drop n
        gaussCount := s.env.gaussCount + n } })

end Sys2Proof.Machine
end

