-- ==== Sys2Proof/Machine/Flags.lean ====
section
/-! DEFINITION. The flags of the block as words and as the interrupt output (10_state.md R26, R45;
60_exceptions.md R238). The block has no arithmetic condition codes (R45). -/

namespace Sys2Proof.Machine

/-- A Bool as the given bit of a word. -/
def flagBit (j : Nat) (b : Bool) : Word :=
  if b then 1#64 <<< j else 0

/-- `STATUS` as a word (R26). -/
def State.statusWord (s : State) : Word :=
  flagBit 0 s.busy ||| flagBit 1 s.done ||| flagBit 2 s.err ||| flagBit 3 s.cmpOk |||
    flagBit 4 s.cfgValid

/-- The interrupt output, a level (R238). -/
def State.irq (s : State) : Bool :=
  s.irqEn && s.done

end Sys2Proof.Machine
end

