-- ==== Sys2Proof/Machine/Float.lean ====
section
/-! DEFINITION. The binary64 primitives of 00_scope.md R12 and the sequence primitives of R13. Every
finite binary64 value is an integer multiple of 2^-1074, so each operation is computed exactly in that
unit, as a quotient of integers, and rounded once, to nearest, ties to even. What an operation does
with infinities, NaNs and zeros is IEEE 754's (log entry 8); which NaN it answers is free (log entry
7). -/

namespace Sys2Proof.Machine

/-- `+0.0`. -/
def posZero : F64 := 0

/-- `1.0`. -/
def fOne : F64 := 0x3FF0000000000000

/-- `2.0`. -/
def fTwo : F64 := 0x4000000000000000

/-- `20.0`. -/
def fTwenty : F64 := 0x4034000000000000

/-- `TWO_PI` (R12). -/
def twoPi : F64 := 0x401921FB54442D18

/-- The sign, bit 63 (R11). -/
def signBit (a : F64) : Bool :=
  a.getLsbD 63

/-- The pattern without its sign: exponent and fraction as one number, which grows with the magnitude. -/
def magBits (a : F64) : Nat :=
  a.toNat % 2 ^ 63

/-- The pattern of infinity without its sign. -/
def infBits : Nat :=
  2047 * 2 ^ 52

/-- A NaN: exponent all ones, fraction not 0. -/
def isNaN (a : F64) : Bool :=
  decide (infBits < magBits a)

/-- An infinity. -/
def isInf (a : F64) : Bool :=
  magBits a == infBits

/-- `isfinite` (R12): neither an infinity nor a NaN. -/
def isFinite (a : F64) : Bool :=
  decide (magBits a < infBits)

/-- `+0.0` or `-0.0`, the values that equal `+0.0` (R12). -/
def isZero (a : F64) : Bool :=
  magBits a == 0

/-- The value 2^-1074 as a divisor: how many units one is. -/
def unitsPerOne : Nat :=
  2 ^ 1074

/-- The magnitude of a finite value, in units of 2^-1074. -/
def unitsOf (a : F64) : Nat :=
  let e := magBits a / 2 ^ 52
  let f := magBits a % 2 ^ 52
  if e = 0 then f else (2 ^ 52 + f) * 2 ^ (e - 1)

/-- A finite value as an integer number of units of 2^-1074. -/
def signedUnits (a : F64) : Int :=
  if signBit a then -(unitsOf a : Int) else (unitsOf a : Int)

/-- The pattern with the given sign and the given other bits. -/
def withSign (negative : Bool) (mag : Nat) : F64 :=
  BitVec.ofNat 64 (if negative then 2 ^ 63 + mag else mag)

/-- `num / den` rounded to the nearest integer, ties to the even one. -/
def roundHalfEvenQuot (num den : Nat) : Nat :=
  let q := num / den
  let r := num % den
  if den < 2 * r ∨ (2 * r = den ∧ q % 2 = 1) then q + 1 else q

/-- The magnitude bits of the binary64 value nearest to `num / den` units, ties to even: the quotient is
scaled to 53 significant bits (fewer below 2^52 units), rounded, and its exponent put in front. A carry out
of the fraction moves into the exponent, and what is too large becomes infinity. -/
def roundMag (num den : Nat) : Nat :=
  let k := Nat.log2 (num / den) - 52
  min (k * 2 ^ 52 + roundHalfEvenQuot num (den * 2 ^ k)) infBits

/-- Some NaN: the pattern `Config.nanResult` names, when that is a NaN (log entry 7). -/
def someNaN (op : FloatOp) (a b : F64) : F64 :=
  let p := Config.nanResult op a b
  if isNaN p then p else 0x7FF8000000000000

/-- `fneg` (R12): bit 63 flips, nothing else. -/
def fneg (a : F64) : F64 :=
  a ^^^ 0x8000000000000000

/-- The sum of two values, as the operation `op`. -/
def addAs (op : FloatOp) (a b : F64) : F64 :=
  if isNaN a || isNaN b then someNaN op a b
  else if isInf a then (if isInf b && signBit a != signBit b then someNaN op a b else a)
  else if isInf b then b
  else
    let z := signedUnits a + signedUnits b
    if z = 0 then withSign (signBit a && signBit b) 0
    else withSign (decide (z < 0)) (roundMag z.natAbs 1)

/-- `fadd` (R12). -/
def fadd (a b : F64) : F64 :=
  addAs .add a b

/-- `fsub` (R12). -/
def fsub (a b : F64) : F64 :=
  addAs .sub a (fneg b)

/-- `fmul` (R12). -/
def fmul (a b : F64) : F64 :=
  let neg := signBit a != signBit b
  if isNaN a || isNaN b then someNaN .mul a b
  else if isInf a || isInf b then
    (if isZero a || isZero b then someNaN .mul a b else withSign neg infBits)
  else withSign neg (roundMag (unitsOf a * unitsOf b) unitsPerOne)

/-- `fdiv` (R12). -/
def fdiv (a b : F64) : F64 :=
  let neg := signBit a != signBit b
  if isNaN a || isNaN b then someNaN .div a b
  else if isInf a then (if isInf b then someNaN .div a b else withSign neg infBits)
  else if isInf b then withSign neg 0
  else if isZero b then (if isZero a then someNaN .div a b else withSign neg infBits)
  else withSign neg (roundMag (unitsOf a * unitsPerOne) (unitsOf b))

/-- The bits of the integer square root of `n` from bit `k - 1` down, above the bits found so far. -/
def isqrtBits (n : Nat) : Nat → Nat → Nat
  | 0, found => found
  | k + 1, found =>
    let try1 := found + 2 ^ k
    isqrtBits n k (if try1 * try1 ≤ n then try1 else found)

/-- The integer square root: the largest `r` with `r * r ≤ n`. -/
def isqrt (n : Nat) : Nat :=
  isqrtBits n (Nat.log2 n / 2 + 1) 0

/-- `fsqrt` (R12). The root of `u` units is the root of `u * 2^1074` in units; where the integer root
`r` is not exact the true root lies strictly between `r` and `r + 1`, where it rounds as `r + 1/2` does,
since it has more than 53 bits before the point. -/
def fsqrt (a : F64) : F64 :=
  if isNaN a then someNaN .sqrt a a
  else if isZero a then a
  else if signBit a then someNaN .sqrt a a
  else if isInf a then a
  else
    let n := unitsOf a * unitsPerOne
    let r := isqrt n
    withSign false (roundMag (if r * r = n then 2 * r else 2 * r + 1) 2)

/-- `i2f` (R12): the binary64 value nearest to an integer. -/
def i2f (n : Int) : F64 :=
  withSign (decide (n < 0)) (roundMag (n.natAbs * unitsPerOne) 1)

/-- The place of a value in the order of IEEE 754: both zeros are 0. -/
def orderKey (a : F64) : Int :=
  if signBit a then -(magBits a : Int) else (magBits a : Int)

/-- `fgt` (R12): ordered greater-than, false on a NaN. -/
def fgt (a b : F64) : Bool :=
  !isNaN a && !isNaN b && decide (orderKey b < orderKey a)

/-- `flt` (R12): ordered less-than, false on a NaN. -/
def flt (a b : F64) : Bool :=
  fgt b a

/-- `round_half_even` (R12) of a finite value. -/
def roundHalfEven (a : F64) : Int :=
  let m := roundHalfEvenQuot (unitsOf a) unitsPerOne
  if signBit a then -(m : Int) else (m : Int)

/-- `sum_seq` (R13): the left fold of `fadd` from `+0.0`. -/
def sumSeq (xs : List F64) : F64 :=
  xs.foldl fadd posZero

/-- `norm` (R13): the Euclidean norm. -/
def norm (xs : List F64) : F64 :=
  fsqrt (sumSeq (xs.map fun x => fmul x x))

/-- `fcos` (R7) of the instance: its listed points, and elsewhere the free function (log entry 5). -/
def fcos (p : Params) (a : F64) : F64 :=
  (p.cosPoints.lookup a).getD (Config.fcos a)

/-- `fpow10` (R7) of the instance: its listed points, and elsewhere the free function (log entry 5). -/
def fpow10 (p : Params) (a : F64) : F64 :=
  (p.pow10Points.lookup a).getD (Config.fpow10 a)

end Sys2Proof.Machine
end

