-- ==== Sys2Proof/Machine/Operands.lean ====
section
/-! DEFINITION. The operands the option bits select (30_encoding.md R92) and the values elements stand for
(10_state.md R41, 00_scope.md R13). A bipolar value is held as a Bool, true for +1. -/

namespace Sys2Proof.Machine

/-- The region a `SRC` option selects (R132). -/
def bitRegion : BitSource → Region
  | .bits => .bits
  | .result => .result

/-- The region a `DST` or `CODESEL` option selects (R162, R164, R200). -/
def codeRegion : CodeSel → Region
  | .codeA => .codeA
  | .codeB => .codeB

/-- The region an `XSRC` option selects (R184, R200). -/
def waveRegion : WaveSel → Region
  | .tx => .tx
  | .rx => .rx

/-- The value of a Bit or Bip element: its bit 0 (R41). For a Bip, true is +1; so reading a Bit is also
`bip` and reading a Bip as a Bit is `unbip` (R13). -/
def elemBit (w : Word) : Bool :=
  w.getLsbD 0

/-- The element a Bit or Bip value is stored as (R41). -/
def bitElem (b : Bool) : Word :=
  if b then 1 else 0

/-- The value of a CodePoint element: its bits 31:0 (R41). -/
def elemCodePoint (w : Word) : Nat :=
  w.toNat % 2 ^ 32

/-- The element a byte is stored as (R41). -/
def byteElem (u : Nat) : Word :=
  BitVec.ofNat 64 (u % 256)

/-- The integer a bipolar value stands for (R11). -/
def bipInt (b : Bool) : Int :=
  if b then 1 else -1

/-- The product of two bipolar values (R164): +1 where they agree. -/
def bipMul (a b : Bool) : Bool :=
  a == b

/-- A sample under a bipolar sign: kept for +1, negated for -1 (R180, R200). -/
def signed (c : Bool) (x : F64) : F64 :=
  if c then x else fneg x

end Sys2Proof.Machine
end

