-- ==== Sys2Proof/Machine/Bus.lean ====
section
/-! DEFINITION. The host's transactions: the placement of the block (R78, R245), address decode, the
register map, and what a read answers and a write does (10_state.md R22 to R39; 20_memory.md R71, R72, R77;
70_reset_and_hazards.md R260, R262). -/

namespace Sys2Proof.Machine

/-- The region number of an address: bits 23:20 (R72). -/
def addrRegion (a : BusAddr) : Nat :=
  (a.extractLsb' 20 4).toNat

/-- The index of an address: bits 19:0 (R72). -/
def addrIndex (a : BusAddr) : Nat :=
  (a.extractLsb' 0 20).toNat

/-- The register at an index of region 0, `none` where the index is reserved (R22). -/
def csrOf (index : Nat) : Option Csr :=
  match index with
  | 0x000 => some .id
  | 0x001 => some .ctrl
  | 0x002 => some .status
  | 0x003 => some .errcode
  | 0x004 => some .cmd
  | 0x008 => some .fs
  | 0x009 => some .fc
  | 0x00A => some .sf
  | 0x00B => some .tsym
  | 0x00C => some .snrDb
  | 0x00D => some .amp
  | 0x00E => some .phase
  | 0x00F => some .seed
  | 0x010 => some .tc
  | 0x011 => some .ns
  | 0x012 => some .nss
  | 0x013 => some .lfsr
  | 0x040 => some .frameKind
  | 0x060 => some .cksum
  | 0x061 => some .cksumSum
  | 0x062 => some .mismatch
  | 0x070 => some .diagNormSig
  | 0x071 => some .diagNormNoise
  | 0x072 => some .diagScale
  | _ =>
    if index / 16 = 2 then (regionOf (index % 16)).map .len
    else if index / 16 = 3 then (regionOf (index % 16)).map .cap
    else if h : 0x041 ≤ index ∧ index ≤ 0x04C then some (.field ⟨index - 0x041, by omega⟩)
    else if h : 0x051 ≤ index ∧ index ≤ 0x05C then some (.dfield ⟨index - 0x051, by omega⟩)
    else none

/-- `ID` (R24). -/
def idWord : Word :=
  0x5350554300070001

/-- What a read of a register answers (R24 to R39, R43); unused bits read as 0. -/
def csrRead (s : State) : Csr → Word
  | .id => idWord
  | .ctrl => flagBit 0 s.irqEn
  | .status => s.statusWord
  | .errcode => s.errcode
  | .cmd => s.cmd
  | .fs => s.fs
  | .fc => s.fc
  | .sf => s.sf
  | .tsym => s.tsym
  | .snrDb => s.snrDb
  | .amp => s.amp
  | .phase => s.phase
  | .seed => s.seed.zeroExtend 64
  | .tc => s.tc
  | .ns => (s.ns.extractLsb' 0 20).zeroExtend 64
  | .nss => s.nss
  | .lfsr => s.lfsr.zeroExtend 64
  | .len r => BitVec.ofNat 64 (s.lenOf r)
  | .cap r => BitVec.ofNat 64 (s.cap r)
  | .frameKind => flagBit 0 s.frameKind
  | .field k => s.field[k]
  | .dfield k => s.dfield[k]
  | .cksum => s.cksum.zeroExtend 64
  | .cksumSum => s.cksumSum.zeroExtend 64
  | .mismatch => s.mismatch.zeroExtend 64
  | .diagNormSig => s.diagNormSig
  | .diagNormNoise => s.diagNormNoise
  | .diagScale => s.diagScale

/-- What a write of SEED stores: its low 16 bits, and 1 in place of 0 (R31). -/
def seedStored (w : Word) : BitVec 16 :=
  if w.extractLsb' 0 16 = 0 then 1 else w.extractLsb' 0 16

/-- What a write of a register does (R23 to R37, R77); `none` for a read-only register and for a length
above its capacity, which are bus errors (R23, R34). Writing CMD issues a command (R28, R236). -/
def csrWrite (w : Word) (s : State) : Csr → Option State
  | .id => none
  | .ctrl => some { s with irqEn := w.getLsbD 0 }
  | .status => some (ackStatus w s)
  | .errcode => none
  | .cmd => some (issue w s)
  | .fs => some { s with fs := w, cfgValid := false }
  | .fc => some { s with fc := w, cfgValid := false }
  | .sf => some { s with sf := w, cfgValid := false }
  | .tsym => some { s with tsym := w, cfgValid := false }
  | .snrDb => some { s with snrDb := w }
  | .amp => some { s with amp := w, cfgValid := false }
  | .phase => some { s with phase := w, cfgValid := false }
  | .seed => some { s with seed := seedStored w }
  | .tc => none
  | .ns => none
  | .nss => none
  | .lfsr => none
  | .len r =>
    if r = .splus then none
    else if s.cap r < w.toNat then none
    else some (s.putLen r w.toNat)
  | .cap _ => none
  | .frameKind => some { s with frameKind := w.getLsbD 0 }
  | .field k => some { s with field := s.field.set k w }
  | .dfield _ => none
  | .cksum => none
  | .cksumSum => none
  | .mismatch => none
  | .diagNormSig => none
  | .diagNormNoise => none
  | .diagScale => none

/-- The addresses the host may read while BUSY = 1: STATUS and ID (R262). -/
def readableWhileBusy (a : BusAddr) : Bool :=
  addrRegion a == 0 && (csrOf (addrIndex a) == some .status || csrOf (addrIndex a) == some .id)

/-- A completed read: the word is the host's (R71); nothing else changes (R77). -/
def answer (w : Word) (s : State) : Host.Outcome State Fault Refusal :=
  .next { s with env := { s.env with rdata := some w } }

/-- `BusRead(addr)` (R71, R72, R262). -/
def busRead (a : BusAddr) (s : State) : Host.Outcome State Fault Refusal :=
  if s.busy && !readableWhileBusy a then .fault .busyHazard
  else
    match regionOf (addrRegion a) with
    | none =>
      match csrOf (addrIndex a) with
      | none => .fault .hostBusError
      | some c => answer (csrRead s c) s
    | some r =>
      if s.cap r ≤ addrIndex a then .fault .hostBusError
      else
        match s.elem r (addrIndex a) with
        | none => .fault .uninitRead
        | some w => answer w s

/-- `BusWrite(addr, data)` (R71, R72, R262). -/
def busWrite (a : BusAddr) (w : Word) (s : State) : Host.Outcome State Fault Refusal :=
  if s.busy then .fault .busyHazard
  else
    match regionOf (addrRegion a) with
    | none =>
      match csrOf (addrIndex a) with
      | none => .fault .hostBusError
      | some c =>
        match csrWrite w s c with
        | none => .fault .hostBusError
        | some t => .next t
    | some r =>
      if r = .splus ∨ s.cap r ≤ addrIndex a then .fault .hostBusError
      else .next (s.putElem r (addrIndex a) (storedBits r w))

/-- The host addresses that are the block's: `BASE_ADDR`, where its word 0 lies, and those after it up to the
stride past its last word (R78; log entry 18). -/
def State.covers (s : State) (h : Nat) : Bool :=
  decide (s.params.baseAddr ≤ h) && decide (h < s.params.baseAddr + s.params.addrStride * 2 ^ 24)

/-- The word that lies at a host address the block covers, the words following each other in order at the
stride; `none` between two words (R78, R75; log entry 18). -/
def State.wordAddr (s : State) (h : Nat) : Option BusAddr :=
  let offset := h - s.params.baseAddr
  if offset % s.params.addrStride = 0 then some (BitVec.ofNat 24 (offset / s.params.addrStride)) else none

/-- An access at a host address: the bus transaction on the word that lies there. Outside the block's range
the platform selects another device and the block sees nothing; between two words no transaction exists
(R75) and the model stops, as it does at a reserved place (R240; log entry 18). -/
def hostAccess (transaction : BusAddr → State → Host.Outcome State Fault Refusal) (h : Nat)
    (s : State) : Host.Outcome State Fault Refusal :=
  if s.covers h then
    match s.wordAddr h with
    | some a => transaction a s
    | none => .fault (if s.busy then .busyHazard else .hostBusError)
  else .next s

/-- The host reads at an address of its own address space (R71, R78). -/
def hostRead (h : Nat) (s : State) : Host.Outcome State Fault Refusal :=
  hostAccess busRead h s

/-- The host writes at an address of its own address space (R71, R78). -/
def hostWrite (h : Nat) (w : Word) (s : State) : Host.Outcome State Fault Refusal :=
  hostAccess (fun a => busWrite a w) h s

/-- The reset input (R260): every register at its reset value, every element unwritten, a pending command
abandoned. The instance's parameters and the environment are not the block's to reset (log entry 10). -/
def resetBlock (s : State) : State :=
  State.resetWith s.params s.env

end Sys2Proof.Machine
end

