-- ==== Sys2Proof/Machine/Control.lean ====
section
/-! DEFINITION. The control commands NOP and CONFIG (40_control.md). -/

namespace Sys2Proof.Machine

/-- NOP (R110). -/
def execNop (s : State) : Host.Outcome State Fault Refusal :=
  complete s (.ok s)

/-- The sample period `1/FS` (R111). -/
def samplePeriod (s : State) : F64 :=
  fdiv fOne s.fs

/-- The chip duration `TSYM / SF` (R111). -/
def chipDuration (s : State) : F64 :=
  fdiv s.tsym (i2f s.sf.toInt)

/-- The sample-count expression `(chip_duration - 1/Fs) * Fs` before it is rounded (R111). -/
def sampleCount (s : State) : F64 :=
  fmul (fsub (chipDuration s) (samplePeriod s)) s.fs

/-- FC as the carrier takes it: FC = -0.0 behaves as +0.0 (R111, corner cases; 93_implementation_defined.md
U24). -/
def carrierFrequency (s : State) : F64 :=
  if s.fc = fneg posZero then posZero else s.fc

/-- Sample `n` of the per-chip carrier (R111). -/
def carrierSample (s : State) (n : Nat) : F64 :=
  fmul s.amp (fcos s.params
    (fadd (fmul (fmul twoPi (carrierFrequency s)) (fmul (i2f n) (samplePeriod s))) s.phase))

/-- The `ns` samples of `s_plus` (R111). -/
def carrier (s : State) (ns : Nat) : List F64 :=
  (List.range ns).map (carrierSample s)

/-- The check of ConfigError 7: a sample is not finite, or the carrier's norm is 0 (R111). -/
def carrierDegenerate (sp : List F64) : Bool :=
  sp.any (fun x => !isFinite x) || isZero (norm sp)

/-- The checks of CONFIG that come before the sample count, in order (R111). -/
def configInputs (s : State) : CmdM Unit := do
  raiseIf (decide (s.sf.toInt ≤ 0)) (.config 1)
  raiseIf (decide ((s.cap .codeA : Int) < s.sf.toInt)) (.capacity .codeA s.sf.toInt)
  raiseIf (!isFinite s.fs || !fgt s.fs posZero) (.config 2)
  raiseIf (!isFinite s.fc || flt s.fc posZero) (.config 3)
  raiseIf (!fgt s.fs (fmul fTwo s.fc)) (.config 4)
  raiseIf (!isFinite s.tsym || !fgt s.tsym posZero) (.config 5)

/-- The checks of CONFIG on the sample count, and the count (R111). -/
def configCount (s : State) : CmdM Nat := do
  raiseIf (!isFinite (sampleCount s)) (.config 6)
  let ns := roundHalfEven (sampleCount s)
  raiseIf (decide (ns < 1)) (.config 6)
  raiseIf (decide ((s.cap .splus : Int) < ns)) (.capacity .splus ns)
  return ns.toNat

/-- The writes of a CONFIG that succeeds with `ns` samples per chip (R111). -/
def configured (s : State) (ns : Nat) : State :=
  { s.putSeq .splus (carrier s ns) with
    tc := chipDuration s
    ns := BitVec.ofNat 64 ns
    nss := BitVec.ofNat 64 (ns * s.sf.toNat)
    cfgValid := true }

/-- The rule of CONFIG (R111). -/
def configRule (s : State) : CmdM State := do
  configInputs s
  let ns ← configCount s
  raiseIf (carrierDegenerate (carrier s ns)) (.config 7)
  return configured s ns

/-- CONFIG (R111). -/
def execConfig (s : State) : Host.Outcome State Fault Refusal :=
  complete s (configRule s)

end Sys2Proof.Machine
end

