-- ==== Sys2Proof/Machine/Modulator.lean ====
section
/-! DEFINITION. The BPSK modulator with its noise and interference options, and the reference carrier:
MODULATE and REFGEN (43_modulator.md). -/

namespace Sys2Proof.Machine

/-- The clean waveform: one segment per chip, `s_plus` for +1 and its negation for -1 (R180, R181). -/
def chipWaveform (chips : List Bool) (splus : List F64) : List F64 :=
  chips.flatMap fun c => splus.map (signed c)

/-- The reference carrier: one `s_plus` per chip (R181, R184). -/
def referenceCarrier (chips : Nat) (splus : List F64) : List F64 :=
  (List.replicate chips splus).flatten

/-- The samples of SPLUS a command reads for `chips` chips: none for no chip, else NS of them. -/
def readSplus (s : State) (chips : Nat) : CmdM (List F64) :=
  readSeq s .splus (if chips = 0 then 0 else s.ns.toNat)

/-- How many samples MODULATE makes: `LEN[CHIPS] * NS` (R181). -/
def modulateLength (s : State) : Nat :=
  s.lenOf .chips * s.ns.toNat

/-- The checks of MODULATE before it reads anything, in order (R181). -/
def modulateChecks (noise intf : Bool) (gsrc : GaussSource) (s : State) : CmdM Unit := do
  needConfig s
  let m := modulateLength s
  raiseIf (decide (s.cap .tx < m)) (.capacity .tx m)
  raiseIf (intf && s.lenOf .intf != m) (.length 7 (s.lenOf .intf))
  raiseIf (noise && gsrc == .gnoise && s.lenOf .gnoise != m) (.length 8 (s.lenOf .gnoise))

/-- What MODULATE has built before it scales noise: the clean waveform, the reference carrier and the
unscaled noise (empty without NOISE). -/
structure Modulated where
  wave : List F64
  ref : List F64
  draw : List F64
  deriving DecidableEq, Repr

/-- The unscaled noise of `m` samples, from the source GSRC selects, and the state with it drawn (R182). -/
def noiseDraw (gsrc : GaussSource) (m : Nat) (s : State) : CmdM (List F64 × State) :=
  match gsrc with
  | .internal => .ok (drawGauss m s)
  | .gnoise => (readSeq s .gnoise m).map fun g => (g, s)

/-- MODULATE up to the noise draw: every check and read that comes before it, in order (R181, R182). The
state is the one with the draw made (log entry 6). -/
def modulateStart (noise intf : Bool) (gsrc : GaussSource) (s : State) :
    CmdM (Modulated × State) := do
  modulateChecks noise intf gsrc s
  let chips ← readAll s .chips
  let splus ← readSplus s (s.lenOf .chips)
  let wave := chipWaveform (chips.map elemBit) splus
  let ref := referenceCarrier (s.lenOf .chips) splus
  if noise then
    raiseIf (!isFinite s.snrDb) (.config 9)
    raiseIf (!isFinite (norm wave) || isZero (norm wave)) (.config 10)
    let (g, s1) ← noiseDraw gsrc (modulateLength s) s
    return (⟨wave, ref, g⟩, s1)
  else
    return (⟨wave, ref, []⟩, s)

/-- The scale that brings a draw `g` to the norm `‖wave‖ / 10^(SNR_DB/20)` (R182). -/
def noiseScale (s : State) (wave g : List F64) : F64 :=
  fdiv (fdiv (norm wave) (fpow10 s.params (fdiv s.snrDb fTwenty))) (norm g)

/-- The scaled noise and its scale, with the checks on them (R182); without NOISE, none and `+0.0`. -/
def scaledNoise (noise : Bool) (s : State) (wave g : List F64) : CmdM (List F64 × F64) :=
  if noise then do
    raiseIf (!isFinite (norm g) || isZero (norm g)) (.config 11)
    raiseIf (!isFinite (noiseScale s wave g)) (.config 12)
    return (g.map fun x => fmul x (noiseScale s wave g), noiseScale s wave g)
  else .ok ([], posZero)

/-- The sum of two waveforms, sample by sample (R181, R183). -/
def addWaves (xs ys : List F64) : List F64 :=
  List.zipWith fadd xs ys

/-- The diagnostic registers (R185). -/
def putDiagnostics (noise : Bool) (wave scaled : List F64) (scale : F64) (s : State) : State :=
  { s with
    diagNormSig := norm wave
    diagNormNoise := if noise then norm scaled else posZero
    diagScale := if noise then scale else posZero }

/-- MODULATE from the noise draw on (R181, R182, R183, R185). -/
def modulateFinish (noise intf diag : Bool) (m : Modulated) (s : State) : CmdM State := do
  let (scaled, scale) ← scaledNoise noise s m.wave m.draw
  let noisy := if noise then addWaves m.wave scaled else m.wave
  let interference ← readSeq s .intf (if intf then modulateLength s else 0)
  let out := if intf then addWaves noisy interference else noisy
  let t := (s.putSeq .tx out).putSeq .ref m.ref
  return if diag then putDiagnostics noise m.wave scaled scale t else t

/-- MODULATE (R181). -/
def execModulate (noise intf diag : Bool) (gsrc : GaussSource) (s : State) :
    Host.Outcome State Fault Refusal :=
  match modulateStart noise intf gsrc s with
  | .error e => complete s (.error e)
  | .ok (m, s1) => complete s1 (modulateFinish noise intf diag m s1)

/-- LengthError 4 unless the selected waveform is a whole number of chips (R184, R200, R202). -/
def checkWaveLength (x : WaveSel) (s : State) : CmdM Unit :=
  raiseIf (s.lenOf (waveRegion x) % s.ns.toNat != 0) (.length 4 (s.lenOf (waveRegion x)))

/-- The rule of REFGEN (R184). -/
def refgenRule (x : WaveSel) (s : State) : CmdM State := do
  needConfig s
  checkWaveLength x s
  let chips := s.lenOf (waveRegion x) / s.ns.toNat
  let splus ← readSplus s chips
  return s.putSeq .ref (referenceCarrier chips splus)

/-- REFGEN (R184). -/
def execRefgen (xsrc : WaveSel) (s : State) : Host.Outcome State Fault Refusal :=
  complete s (refgenRule xsrc s)

end Sys2Proof.Machine
end

