-- ==== Sys2Proof/Machine/Spreading.lean ====
section
/-! DEFINITION. The PN-code spreading engine: PN_SEED, PN_GEN and SPREAD (42_spreading.md). -/

namespace Sys2Proof.Machine

/-- PN_SEED (R160). -/
def execPnSeed (s : State) : Host.Outcome State Fault Refusal :=
  complete s (.ok { s with lfsr := s.seed })

/-- One step of the generator (R161): the output bit and the new state. -/
def lfsrStep (x : BitVec 16) : Bool × BitVec 16 :=
  let fb := (((x.getLsbD 0).xor (x.getLsbD 2)).xor (x.getLsbD 3)).xor (x.getLsbD 5)
  (x.getLsbD 0, (x >>> 1) ||| (if fb then 1#16 <<< 15 else 0))

/-- `n` steps of the generator: the bits it puts out, first first, and the state it ends in (R162). -/
def lfsrRun : Nat → BitVec 16 → List Bool × BitVec 16
  | 0, x => ([], x)
  | n + 1, x =>
    let (b, x') := lfsrStep x
    let (bs, y) := lfsrRun n x'
    (b :: bs, y)

/-- The code of `n` bits that a source gives, and the state with the source advanced (R162). -/
def pnCode (src : PnSource) (n : Nat) (s : State) : List Bool × State :=
  match src with
  | .lfsr => ((lfsrRun n s.lfsr).1, { s with lfsr := (lfsrRun n s.lfsr).2 })
  | .entropy => drawEntropy n s

/-- The rule of PN_GEN (R162): `SF` bits, bit 1 being +1. -/
def pnGenRule (dst : CodeSel) (src : PnSource) (s : State) : CmdM State := do
  needConfig s
  let (code, s1) := pnCode src s.sf.toInt.toNat s
  return s1.putSeq (codeRegion dst) (code.map bitElem)

/-- PN_GEN (R162). -/
def execPnGen (dst : CodeSel) (pnsrc : PnSource) (s : State) : Host.Outcome State Fault Refusal :=
  complete s (pnGenRule dst pnsrc s)

/-- The chips of a bit sequence (R164): each bit's symbol times the whole code. -/
def spreadChips (bits code : List Bool) : List Bool :=
  bits.flatMap fun b => code.map fun c => bipMul b c

/-- LengthError 3 unless the selected code's length is SF (R164, R200, R202). -/
def checkCodeLength (sel : CodeSel) (s : State) : CmdM Unit :=
  raiseIf (decide ((s.lenOf (codeRegion sel) : Int) ≠ s.sf.toInt))
    (.length 3 (s.lenOf (codeRegion sel)))

/-- The rule of SPREAD (R164). The code is read only where there is a bit to spread. -/
def spreadRule (sel : CodeSel) (s : State) : CmdM State := do
  needConfig s
  checkCodeLength sel s
  let f := s.lenOf (codeRegion sel)
  let n := s.lenOf .bits
  raiseIf (decide (s.cap .chips < n * f)) (.capacity .chips (n * f : Nat))
  let bits ← readAll s .bits
  let code ← readSeq s (codeRegion sel) (if n = 0 then 0 else f)
  return s.putSeq .chips ((spreadChips (bits.map elemBit) (code.map elemBit)).map bitElem)

/-- SPREAD (R164). -/
def execSpread (codesel : CodeSel) (s : State) : Host.Outcome State Fault Refusal :=
  complete s (spreadRule codesel s)

end Sys2Proof.Machine
end

