-- ==== Sys2Proof/Machine/Demodulator.lean ====
section
/-! DEFINITION. The BPSK demodulator: DESPREAD, CORRELATE, DEMOD and DEMOD_WRONG (44_demodulator.md). -/

namespace Sys2Proof.Machine

/-- The code value of every sample of `chips` chips of `ns` samples each: chip `k` has the code's value
`k mod f` (R200). -/
def sampleSigns (code : List Bool) (f ns chips : Nat) : List Bool :=
  (List.range chips).flatMap fun k => List.replicate ns (code.getD (k % f) true)

/-- The despread waveform: each sample kept or negated by its chip's code value (R200). -/
def despreadWave (code : List Bool) (f ns chips : Nat) (x : List F64) : List F64 :=
  List.zipWith signed (sampleSigns code f ns chips) x

/-- The body of DESPREAD on the selected code and waveform, its checks passed (R200). Of a code longer
than the message only the values used are read. -/
def despreadData (sel : CodeSel) (x : WaveSel) (s : State) : CmdM (List F64) := do
  let f := s.lenOf (codeRegion sel)
  let ns := s.ns.toNat
  let chips := s.lenOf (waveRegion x) / ns
  let code ← readSeq s (codeRegion sel) (min f chips)
  let wave ← readAll s (waveRegion x)
  return despreadWave (code.map elemBit) f ns chips wave

/-- The rule of DESPREAD (R200). -/
def despreadRule (sel : CodeSel) (x : WaveSel) (s : State) : CmdM State := do
  needConfig s
  checkCodeLength sel s
  checkWaveLength x s
  let d ← despreadData sel x s
  return s.putSeq .desp d

/-- DESPREAD (R200). -/
def execDespread (codesel : CodeSel) (xsrc : WaveSel) (s : State) :
    Host.Outcome State Fault Refusal :=
  complete s (despreadRule codesel xsrc s)

/-- A sequence cut into `n` windows of `size` (R201). -/
def windows (size : Nat) : Nat → List F64 → List (List F64)
  | 0, _ => []
  | n + 1, xs => xs.take size :: windows size n (xs.drop size)

/-- The correlation sums: the inner product of reference and despread signal over each symbol's window,
accumulated in sample order from `+0.0` (R201). -/
def correlations (size symbols : Nat) (ref desp : List F64) : List F64 :=
  (windows size symbols (List.zipWith fmul ref desp)).map sumSeq

/-- The hard decision: +1 where the sum is greater than 0, else -1 (R201). -/
def decision (acc : F64) : Bool :=
  fgt acc posZero

/-- The writes of CORRELATE (R201). -/
def putCorrelations (sums : List F64) (s : State) : State :=
  (s.putSeq .corr sums).putSeq .result (sums.map fun x => bitElem (decision x))

/-- The checks of CORRELATE on a despread length `m`, in order (R201, R202). -/
def correlateChecks (m : Nat) (s : State) : CmdM Unit := do
  raiseIf (m % s.nss.toNat != 0) (.length 5 m)
  raiseIf (s.lenOf .ref != m) (.length 6 (s.lenOf .ref))
  raiseIf (decide (s.cap .result < m / s.nss.toNat)) (.capacity .result (m / s.nss.toNat : Nat))

/-- The rule of CORRELATE (R201). -/
def correlateRule (s : State) : CmdM State := do
  needConfig s
  let m := s.lenOf .desp
  correlateChecks m s
  let ref ← readSeq s .ref m
  let desp ← readSeq s .desp m
  return putCorrelations (correlations s.nss.toNat (m / s.nss.toNat) ref desp) s

/-- CORRELATE (R201). -/
def execCorrelate (s : State) : Host.Outcome State Fault Refusal :=
  complete s (correlateRule s)

/-- The rule of DEMOD (R202): every check first, then the bodies of DESPREAD and CORRELATE. -/
def demodRule (sel : CodeSel) (x : WaveSel) (s : State) : CmdM State := do
  needConfig s
  checkCodeLength sel s
  checkWaveLength x s
  let m := s.lenOf (waveRegion x)
  correlateChecks m s
  let d ← despreadData sel x s
  let ref ← readSeq s .ref m
  return putCorrelations (correlations s.nss.toNat (m / s.nss.toNat) ref d) (s.putSeq .desp d)

/-- DEMOD (R202). -/
def execDemod (codesel : CodeSel) (xsrc : WaveSel) (s : State) :
    Host.Outcome State Fault Refusal :=
  complete s (demodRule codesel xsrc s)

/-- DEMOD_WRONG (R203): DEMOD with the mismatched code CODEB. -/
def execDemodWrong (xsrc : WaveSel) (s : State) : Host.Outcome State Fault Refusal :=
  complete s (demodRule .codeB xsrc s)

end Sys2Proof.Machine
end

