-- ==== Sys2Proof/Machine/FrameCodec.lean ====
section
/-! DEFINITION. The frame serializer and deserializer: ENCODE, DECODE, CHECKSUM and COMPARE
(41_frame_codec.md). -/

namespace Sys2Proof.Machine

/-- A field value fits its 8-bit two's-complement byte (R131, R133). -/
def inFieldRange (v : Word) : Bool :=
  decide (-128 ≤ v.toInt) && decide (v.toInt ≤ 127)

/-- RangeError on the first field, in order 1 to 12, that is out of range (R131, R133). -/
def checkFields (s : State) : CmdM Unit :=
  match s.field.toList.findIdx? fun v => !inFieldRange v with
  | some k => .error (.raise (.range (k + 1)))
  | none => .ok ()

/-- The unsigned byte `FIELD[k] mod 256` (R130, R133). -/
def fieldByte (v : Word) : Nat :=
  (v.toInt % 256).toNat

/-- The twelve field bytes, in field order (R130). -/
def fieldBytes (s : State) : List Nat :=
  s.field.toList.map fieldByte

/-- A byte as 8 bits, most significant first (R130). -/
def byteBits (u : Nat) : List Bool :=
  [u.testBit 7, u.testBit 6, u.testBit 5, u.testBit 4, u.testBit 3, u.testBit 2, u.testBit 1,
    u.testBit 0]

/-- Eight bits, most significant first, as an unsigned byte (R132). -/
def byteOfBits (b7 b6 b5 b4 b3 b2 b1 b0 : Bool) : Nat :=
  b7.toNat * 128 + b6.toNat * 64 + b5.toNat * 32 + b4.toNat * 16 + b3.toNat * 8 + b2.toNat * 4 +
    b1.toNat * 2 + b0.toNat

/-- A bit sequence in groups of 8, each as an unsigned byte (R132). -/
def bytesOf : List Bool → List Nat
  | b7 :: b6 :: b5 :: b4 :: b3 :: b2 :: b1 :: b0 :: rest =>
    byteOfBits b7 b6 b5 b4 b3 b2 b1 b0 :: bytesOf rest
  | _ => []

/-- The text of a text frame from character `j` on, read in order: the first code point above 127 is an
EncodingError, an unwritten element is `UninitRead` (R131). -/
def scanText (s : State) (j : Nat) : Nat → CmdM (List Nat)
  | 0 => .ok []
  | n + 1 =>
    match s.elem .text j with
    | none => .error (.fault .uninitRead)
    | some w =>
      if 127 < elemCodePoint w then .error (.raise (.encoding j))
      else do
        let rest ← scanText s (j + 1) n
        return elemCodePoint w :: rest

/-- How many text characters ENCODE serializes: `LEN[TEXT]` for a text frame, none for a base frame (R131). -/
def textCount (s : State) : Nat :=
  if s.frameKind then s.lenOf .text else 0

/-- The bit sequence of a frame with the given text bytes (R130). -/
def frameBits (s : State) (text : List Nat) : List Bool :=
  (fieldBytes s ++ text).flatMap byteBits

/-- The rule of ENCODE (R131). -/
def encodeRule (s : State) : CmdM State := do
  checkFields s
  let text ← scanText s 0 (textCount s)
  let length := 96 + 8 * textCount s
  raiseIf (decide (s.cap .bits < length)) (.capacity .bits length)
  return s.putSeq .bits ((frameBits s text).map bitElem)

/-- ENCODE (R131). -/
def execEncode (s : State) : Host.Outcome State Fault Refusal :=
  complete s (encodeRule s)

/-- A decoded field: a byte above 127 is `u - 256`; sign-extended (R132). -/
def fieldValue (u : Nat) : Word :=
  BitVec.ofInt 64 (if 127 < u then (u : Int) - 256 else u)

/-- The twelve decoded fields of the first twelve bytes (R132). -/
def decodedFields (bytes : List Nat) : Vector Word 12 :=
  let f := fun k : Nat => fieldValue (bytes.getD k 0)
  #v[f 0, f 1, f 2, f 3, f 4, f 5, f 6, f 7, f 8, f 9, f 10, f 11]

/-- The length checks of DECODE and COMPARE, in order (R132). -/
def checkFrameLength (s : State) (n : Nat) : CmdM Unit := do
  raiseIf (n % 8 != 0) (.length 1 n)
  raiseIf (decide (n < 96)) (.length 2 n)
  raiseIf (decide (s.cap .dtext < (n - 96) / 8)) (.capacity .dtext ((n - 96) / 8 : Nat))

/-- The bytes of the selected bit sequence, its lengths checked (R132): the twelve fields' bytes, then
the text's. -/
def decodeBytes (src : BitSource) (s : State) : CmdM (List Nat) := do
  checkFrameLength s (s.lenOf (bitRegion src))
  let els ← readAll s (bitRegion src)
  return bytesOf (els.map elemBit)

/-- The writes DECODE and COMPARE share: DFIELD, DTEXT and `LEN[DTEXT]` (R132, R134). -/
def decodedInto (s : State) (bytes : List Nat) : State :=
  { s.putSeq .dtext ((bytes.drop 12).map byteElem) with dfield := decodedFields bytes }

/-- The rule of DECODE (R132). -/
def decodeRule (src : BitSource) (s : State) : CmdM State := do
  let bytes ← decodeBytes src s
  return decodedInto s bytes

/-- DECODE (R132). -/
def execDecode (src : BitSource) (s : State) : Host.Outcome State Fault Refusal :=
  complete s (decodeRule src s)

/-- The untruncated checksum sum (R133). -/
def checksumSum (s : State) : Nat :=
  (fieldBytes s).sum

/-- The rule of CHECKSUM (R133). -/
def checksumRule (s : State) : CmdM State := do
  checkFields s
  return { s with
    cksumSum := BitVec.ofNat 12 (checksumSum s)
    cksum := BitVec.ofNat 8 (checksumSum s % 256) }

/-- CHECKSUM (R133). -/
def execChecksum (s : State) : Host.Outcome State Fault Refusal :=
  complete s (checksumRule s)

/-- Bits, least significant first, as a number. -/
def maskOf : List Bool → Nat
  | [] => 0
  | b :: bs => b.toNat + 2 * maskOf bs

/-- Which decoded fields differ from FIELD, compared as integers, in field order (R134). -/
def fieldDiffs (df : Vector Word 12) (s : State) : List Bool :=
  List.zipWith (fun d f => d.toInt != f.toInt) df.toList s.field.toList

/-- Whether the decoded text differs from TEXT; only for a text frame, and TEXT is read only where the
lengths agree (R134; log entry 11). -/
def textDiffers (dtext : List Nat) (s : State) : CmdM Bool :=
  if s.frameKind then
    if dtext.length != s.lenOf .text then .ok true
    else do
      let els ← readAll s .text
      return dtext != els.map elemCodePoint
  else .ok false

/-- The rule of COMPARE (R134). -/
def compareRule (src : BitSource) (s : State) : CmdM State := do
  let bytes ← decodeBytes src s
  let textDiff ← textDiffers (bytes.drop 12) s
  let m := maskOf (fieldDiffs (decodedFields bytes) s ++ [textDiff])
  return { decodedInto s bytes with
    mismatch := BitVec.ofNat 13 m
    cmpOk := m == 0 }

/-- COMPARE (R134). -/
def execCompare (src : BitSource) (s : State) : Host.Outcome State Fault Refusal :=
  complete s (compareRule src s)

end Sys2Proof.Machine
end

