-- ==== Sys2Proof/Machine/Dispatch.lean ====
section
/-! DEFINITION. What executing one command does: the execute function of 60_exceptions.md R236 with its completion. -/

namespace Sys2Proof.Machine

def exec (i : Instr) (s : State) : Host.Outcome State Fault Refusal :=
  match i with
  | .nop => Sys2Proof.Machine.execNop s
  | .config => Sys2Proof.Machine.execConfig s
  | .pnSeed => Sys2Proof.Machine.execPnSeed s
  | .encode => Sys2Proof.Machine.execEncode s
  | .decode src => Sys2Proof.Machine.execDecode src s
  | .checksum => Sys2Proof.Machine.execChecksum s
  | .compare src => Sys2Proof.Machine.execCompare src s
  | .pnGen dst pnsrc => Sys2Proof.Machine.execPnGen dst pnsrc s
  | .spread codesel => Sys2Proof.Machine.execSpread codesel s
  | .modulate noise intf diag gsrc => Sys2Proof.Machine.execModulate noise intf diag gsrc s
  | .refgen xsrc => Sys2Proof.Machine.execRefgen xsrc s
  | .despread codesel xsrc => Sys2Proof.Machine.execDespread codesel xsrc s
  | .correlate => Sys2Proof.Machine.execCorrelate s
  | .demod codesel xsrc => Sys2Proof.Machine.execDemod codesel xsrc s
  | .demodWrong xsrc => Sys2Proof.Machine.execDemodWrong xsrc s

end Sys2Proof.Machine
end

