-- ==== Sys2Proof/Machine/Engine.lean ====
section
/-! DEFINITION. The engine and the inputs of the block (10_state.md R20; 60_exceptions.md R236). -/

namespace Sys2Proof.Machine

/-- The engine's step (R236): execute the latched command; an illegal word completes with IllegalCommand
(R233). -/
def engineStep (s : State) : Host.Outcome State Fault Refusal :=
  match Sys2Proof.decode s.cmd with
  | .ok i => exec i s
  | .error e => .next (takeError (.illegal (illegalDetail e) (s.cmd.toNat % 2 ^ 16)) s)

/-- The engine given its turn: it is enabled when BUSY = 1 and idles otherwise (R236, R260). -/
def engineTurn (s : State) : Host.Outcome State Fault Refusal :=
  if s.busy then engineStep s else .next s

/-- The state with its oldest pending input taken off the agenda. -/
def State.popInput (s : State) : State :=
  { s with env := { s.env with agenda := s.env.agenda.tail } }

/-- The state with an input put in front of the agenda. -/
def State.pushInput (ev : Event) (s : State) : State :=
  { s with env := { s.env with agenda := ev :: s.env.agenda } }

/-- One input (R20). -/
def perform (ev : Event) (s : State) : Host.Outcome State Fault Refusal :=
  match ev with
  | .hostRead h => hostRead h s
  | .hostWrite h w => hostWrite h w s
  | .engine => engineTurn s
  | .reset => .next (resetBlock s)

/-- The next input of the agenda, or, with none pending, the engine's turn (log entry 2). -/
def takeTurn (s : State) : Host.Outcome State Fault Refusal :=
  match s.env.agenda with
  | [] => engineTurn s
  | ev :: _ => perform ev s.popInput

end Sys2Proof.Machine
end

