-- ==== Sys2Proof/Machine/Step.lean ====
section
/-! DEFINITION. One step of the machine: the oldest pending input, or the engine's turn
(Machine/Engine.lean). -/

namespace Sys2Proof.Machine

/-- One step. -/
def step (s : State) : Host.Outcome State Fault Refusal :=
  takeTurn s

/-- `s` with the table row's word issued as a command (R236) and the engine next to move, so that the next
step executes it (log entry 3). -/
def State.withFetchWord (s : State) (nbits w : Nat) : State :=
  (issue (tableWord nbits w) s).pushInput .engine

end Sys2Proof.Machine
end

