-- ==== Sys2Proof/Safety.lean ====
section
/-! DEFINITION. The terms statements are made in: what a state that a run can reach satisfies, which
regions a command produces, and reading a region one element at a time. -/

namespace Sys2Proof.Machine

/-- The (CODE, DETAIL) pairs and INDEX ranges of the DETAIL table (60_exceptions.md R234). -/
def CmdError.listed : CmdError → Prop
  | .range k => 1 ≤ k ∧ k ≤ 12
  | .encoding _ => True
  | .length d _ => 1 ≤ d ∧ d ≤ 8
  | .config d => 1 ≤ d ∧ d ≤ 12
  | .illegal d low => 1 ≤ d ∧ d ≤ 3 ∧ low < 2 ^ 16
  | .capacity r _ => r ∈ [Region.bits, .codeA, .chips, .tx, .result, .dtext, .splus]

/-- Elements 0 to `n - 1` of a region are written (10_state.md R42). -/
abbrev Written (s : State) (r : Region) (n : Nat) : Prop :=
  ∀ i, i < n → (s.elem r i).isSome = true

/-- The value of a Bit or Bip element; `false` where it is unwritten. -/
def State.bitAt (s : State) (r : Region) (i : Nat) : Bool :=
  elemBit ((s.elem r i).getD 0)

/-- The value of a Sample element; `+0.0` where it is unwritten. -/
def State.sampleAt (s : State) (r : Region) (i : Nat) : F64 :=
  (s.elem r i).getD 0

/-- The value of a CodePoint element; 0 where it is unwritten. -/
def State.codePointAt (s : State) (r : Region) (i : Nat) : Nat :=
  elemCodePoint ((s.elem r i).getD 0)

/-- The first `n` samples of a region. -/
def State.samples (s : State) (r : Region) (n : Nat) : List F64 :=
  (List.range n).map (s.sampleAt r)

/-- What holds of every state a run from reset can reach, for an instance whose capacities meet R6. -/
structure State.Inv (s : State) : Prop where
  /-- The capacities meet R6. -/
  caps : s.params.caps.WellFormed
  /-- Every word lies at a host address of its own (R78). -/
  placement : 1 ≤ s.params.addrStride
  /-- The buffer memory is canonical. -/
  canonical : s.mem.wf = true
  /-- A written element lies below its region's capacity and holds only its kind's bits (R40, R41). -/
  elements : ∀ r i w, s.elem r i = some w → i < s.cap r ∧ w.toNat < 2 ^ r.width
  /-- No length exceeds its capacity (R34). -/
  lengths : ∀ r, s.lenOf r ≤ s.cap r
  /-- The generator's state is never 0 (R160). -/
  lfsr : s.lfsr ≠ 0
  /-- The seed is never 0 (R31). -/
  seed : s.seed ≠ 0
  /-- While a command is pending, DONE, ERR and ERRCODE are 0 (R236). -/
  pending : s.busy = true → s.done = false ∧ s.err = false ∧ s.errcode = 0
  /-- ERRCODE is 0 or one of the pairs of R234. -/
  errcode : s.errcode = 0 ∨ ∃ e : CmdError, e.listed ∧ s.errcode = e.word
  /-- A decoded field is an `s8` (R38). -/
  dfields : ∀ k : Fin 12, -128 ≤ s.dfield[k].toInt ∧ s.dfield[k].toInt ≤ 127
  /-- The checksum is its untruncated sum mod 256 (R39, R133). -/
  checksum : s.cksumSum.toNat ≤ 3060 ∧ s.cksum.toNat = s.cksumSum.toNat % 256
  /-- SPLUS holds NS finite samples (R34, R44, R111). -/
  splus : s.ns.toNat = s.lenOf .splus ∧
    ∀ i, i < s.lenOf .splus → ∃ x, s.elem .splus i = some x ∧ isFinite x = true
  /-- A current configuration is one that CONFIG accepts (R32, R111). -/
  config : s.cfgValid = true →
    1 ≤ s.sf.toInt ∧ s.sf.toInt ≤ s.cap .codeA ∧ 1 ≤ s.ns.toNat ∧
      (s.nss.toNat : Int) = s.ns.toNat * s.sf.toInt ∧
      isZero (norm (s.samples .splus s.ns.toNat)) = false

/-- The regions a command produces (10_state.md R40, the column "written by"). -/
def outputsOf : Instr → List Region
  | .nop => []
  | .config => [.splus]
  | .pnSeed => []
  | .encode => [.bits]
  | .decode _ => [.dtext]
  | .checksum => []
  | .compare _ => [.dtext]
  | .pnGen dst _ => [codeRegion dst]
  | .spread _ => [.chips]
  | .modulate _ _ _ _ => [.tx, .ref]
  | .refgen _ => [.ref]
  | .despread _ _ => [.desp]
  | .correlate => [.corr, .result]
  | .demod _ _ => [.desp, .corr, .result]
  | .demodWrong _ => [.desp, .corr, .result]

/-- The regions outside `out` and the elements at or above the new lengths are as they were: every element
and every length of the first, every element of the second (R264, R42). -/
def KeepsElements (out : List Region) (s t : State) : Prop :=
  (∀ r, r ∉ out → (∀ k, t.elem r k = s.elem r k) ∧ t.lenOf r = s.lenOf r) ∧
    ∀ r k, t.lenOf r ≤ k → t.elem r k = s.elem r k

/-- `t` is a completion without error of a command started in `s` that produces the regions `out` and
writes no register: the completion bits, the output regions and their lengths apart, nothing changed. -/
def CompletedInto (out : List Region) (s t : State) : Prop :=
  { t with mem := s.mem, len := s.len } = completeOk s ∧ KeepsElements out s t

/-- The byte of the eight bits from index `8 * g` on, most significant first (41_frame_codec.md R132). -/
def State.groupByte (s : State) (r : Region) (g : Nat) : Nat :=
  ((List.range 8).map fun b => (s.bitAt r (8 * g + b)).toNat * 2 ^ (7 - b)).sum

/-- The integer a decoded byte stands for (R132). -/
def byteField (u : Nat) : Int :=
  if 127 < u then (u : Int) - 256 else u

/-- `k` steps of the generator (42_spreading.md R161). -/
def lfsrAfter : Nat → BitVec 16 → BitVec 16
  | 0, x => x
  | k + 1, x => lfsrAfter k (lfsrStep x).2

/-- What is pending is nothing but host reads that are allowed while BUSY = 1 (70_reset_and_hazards.md
R262). -/
def onlyPolls (s : State) : Bool :=
  s.env.agenda.all fun ev =>
    match ev with
    | .hostRead h => s.covers h && (s.wordAddr h).any readableWhileBusy
    | _ => false

/-- The bus address of index `i` of region number `r` (30_encoding.md R97): region 0 holds the registers. -/
def busAddr (r i : Nat) : BusAddr :=
  BitVec.ofNat 24 (r * 2 ^ 20 + i)

/-! ### When a command executes normally -/

/-- The inputs of CONFIG pass every check of its rule (40_control.md R111). -/
abbrev ConfigReady (s : State) : Prop :=
  s.params.caps.WellFormed ∧ 0 < s.sf.toInt ∧ s.sf.toInt ≤ s.cap .codeA ∧
    (isFinite s.fs = true ∧ fgt s.fs posZero = true) ∧
    (isFinite s.fc = true ∧ flt s.fc posZero = false) ∧
    fgt s.fs (fmul fTwo s.fc) = true ∧
    (isFinite s.tsym = true ∧ fgt s.tsym posZero = true) ∧
    isFinite (sampleCount s) = true ∧ 1 ≤ roundHalfEven (sampleCount s) ∧
    roundHalfEven (sampleCount s) ≤ s.cap .splus ∧
    (∀ n, n < (roundHalfEven (sampleCount s)).toNat → isFinite (carrierSample s n) = true) ∧
    isZero (norm (carrier s (roundHalfEven (sampleCount s)).toNat)) = false

/-- The twelve fields are in range (41_frame_codec.md R131, R133). -/
abbrev FieldsInRange (s : State) : Prop :=
  ∀ k : Fin 12, -128 ≤ s.field[k].toInt ∧ s.field[k].toInt ≤ 127

/-- ENCODE executes without error (R131): the fields are in range, the text of a text frame is written and
ASCII, and the frame fits. -/
abbrev EncodeReady (s : State) : Prop :=
  FieldsInRange s ∧ Written s .text (textCount s) ∧
    (∀ j, j < textCount s → s.codePointAt .text j ≤ 127) ∧ 96 + 8 * textCount s ≤ s.cap .bits

/-- DECODE of a written bit sequence executes without error (R132). -/
abbrev DecodeReady (src : BitSource) (s : State) : Prop :=
  s.mem.wf = true ∧ s.lenOf (bitRegion src) % 8 = 0 ∧ 96 ≤ s.lenOf (bitRegion src) ∧
    (s.lenOf (bitRegion src) - 96) / 8 ≤ s.cap .dtext ∧
    Written s (bitRegion src) (s.lenOf (bitRegion src))

/-- COMPARE executes without error (R134): DECODE does, and TEXT is written where it is read. -/
abbrev CompareReady (src : BitSource) (s : State) : Prop :=
  DecodeReady src s ∧
    (s.frameKind = true → (s.lenOf (bitRegion src) - 96) / 8 = s.lenOf .text →
      Written s .text (s.lenOf .text))

/-- SPREAD executes without error (42_spreading.md R164): the code is read where there is a bit. -/
abbrev SpreadReady (sel : CodeSel) (s : State) : Prop :=
  s.mem.wf = true ∧ s.cfgValid = true ∧ (s.lenOf (codeRegion sel) : Int) = s.sf.toInt ∧
    s.lenOf .bits * s.lenOf (codeRegion sel) ≤ s.cap .chips ∧
    Written s .bits (s.lenOf .bits) ∧
    (s.lenOf .bits ≠ 0 → Written s (codeRegion sel) (s.lenOf (codeRegion sel)))

/-- MODULATE passes the checks and reads that do not concern noise (43_modulator.md R181). -/
abbrev ModulateReady (intf : Bool) (s : State) : Prop :=
  s.mem.wf = true ∧ s.cfgValid = true ∧ modulateLength s ≤ s.cap .tx ∧
    Written s .chips (s.lenOf .chips) ∧ (s.lenOf .chips ≠ 0 → Written s .splus s.ns.toNat) ∧
    (intf = true → s.lenOf .intf = modulateLength s ∧ Written s .intf (modulateLength s))

/-- The clean waveform by index: sample `i` belongs to chip `i / NS` and is sample `i % NS` of its segment
(R180, R181). -/
def cleanWave (s : State) : List F64 :=
  (List.range (modulateLength s)).map fun i =>
    signed (s.bitAt .chips (i / s.ns.toNat)) (s.sampleAt .splus (i % s.ns.toNat))

/-- The unscaled noise MODULATE uses (R182). -/
def noiseOf (gsrc : GaussSource) (s : State) : List F64 :=
  match gsrc with
  | .internal => (drawGauss (modulateLength s) s).1
  | .gnoise => s.samples .gnoise (modulateLength s)

/-- The state with the noise drawn: GNOISE is no draw (log entry 6). -/
def afterDraw (gsrc : GaussSource) (s : State) : State :=
  match gsrc with
  | .internal => (drawGauss (modulateLength s) s).2
  | .gnoise => s

/-- The noise scale `(‖W‖ / 10^(SNR_DB/20)) / ‖g‖` (R182). -/
def scaleOf (gsrc : GaussSource) (s : State) : F64 :=
  fdiv (fdiv (norm (cleanWave s)) (fpow10 s.params (fdiv s.snrDb fTwenty))) (norm (noiseOf gsrc s))

/-- GNOISE, where it is the source, has the waveform's length and is written (R181, R182). -/
abbrev NoiseReady (gsrc : GaussSource) (s : State) : Prop :=
  gsrc = .gnoise →
    s.lenOf .gnoise = modulateLength s ∧ Written s .gnoise (modulateLength s)

/-- The checks of MODULATE's noise pass (R182). -/
abbrev NoisePasses (gsrc : GaussSource) (s : State) : Prop :=
  isFinite s.snrDb = true ∧
    (isFinite (norm (cleanWave s)) = true ∧ isZero (norm (cleanWave s)) = false) ∧
    (isFinite (norm (noiseOf gsrc s)) = true ∧ isZero (norm (noiseOf gsrc s)) = false) ∧
    isFinite (scaleOf gsrc s) = true

/-- REFGEN executes without error (R184). -/
abbrev RefgenReady (x : WaveSel) (s : State) : Prop :=
  s.mem.wf = true ∧ s.cfgValid = true ∧ s.lenOf (waveRegion x) % s.ns.toNat = 0 ∧
    (s.lenOf (waveRegion x) ≠ 0 → Written s .splus s.ns.toNat)

/-- DESPREAD executes without error (44_demodulator.md R200): SF is positive, as a current
configuration has it, and of the code the values used are written. -/
abbrev DespreadReady (sel : CodeSel) (x : WaveSel) (s : State) : Prop :=
  s.mem.wf = true ∧ s.cfgValid = true ∧ 1 ≤ s.sf.toInt ∧
    (s.lenOf (codeRegion sel) : Int) = s.sf.toInt ∧ s.lenOf (waveRegion x) % s.ns.toNat = 0 ∧
    Written s (codeRegion sel)
      (min (s.lenOf (codeRegion sel)) (s.lenOf (waveRegion x) / s.ns.toNat)) ∧
    Written s (waveRegion x) (s.lenOf (waveRegion x))

/-- A despread signal of length `m` is a whole number of symbols, REF matches it, and the symbols fit
(R201, R202). -/
abbrev CorrelateReady (m : Nat) (s : State) : Prop :=
  m % s.nss.toNat = 0 ∧ s.lenOf .ref = m ∧ m / s.nss.toNat ≤ s.cap .result ∧ Written s .ref m

/-- The sample DESPREAD makes at index `i` (R200). -/
def despreadAt (sel : CodeSel) (x : WaveSel) (s : State) (i : Nat) : F64 :=
  signed (s.bitAt (codeRegion sel) (i / s.ns.toNat % s.lenOf (codeRegion sel)))
    (s.sampleAt (waveRegion x) i)

/-- The correlation sum of symbol `i` between REF and a despread signal given by index (R201). -/
def correlationAt (s : State) (desp : Nat → F64) (i : Nat) : F64 :=
  sumSeq ((List.range s.nss.toNat).map fun j =>
    fmul (s.sampleAt .ref (i * s.nss.toNat + j)) (desp (i * s.nss.toNat + j)))

/-! ### The errors a command raises, in the order its rule checks them -/

/-- The first error whose check fails (60_exceptions.md R235). -/
def firstFailing (checks : List (Bool × CmdError)) : Option CmdError :=
  (checks.find? fun c => c.1).map fun c => c.2

/-- ConfigError 8 (R235). -/
def unconfigured (s : State) : Bool × CmdError :=
  (!s.cfgValid, .config 8)

/-- LengthError 3 (R234). -/
def codeLengthFails (sel : CodeSel) (s : State) : Bool × CmdError :=
  (decide ((s.lenOf (codeRegion sel) : Int) ≠ s.sf.toInt), .length 3 (s.lenOf (codeRegion sel)))

/-- LengthError 4 (R234). -/
def waveLengthFails (x : WaveSel) (s : State) : Bool × CmdError :=
  (decide (s.lenOf (waveRegion x) % s.ns.toNat ≠ 0), .length 4 (s.lenOf (waveRegion x)))

/-- RangeError for each field in order (R234). -/
def fieldRangeFails (s : State) : List (Bool × CmdError) :=
  (List.finRange 12).map fun k =>
    (decide (s.field[k].toInt < -128 ∨ 127 < s.field[k].toInt), .range (k.val + 1))

/-- The length checks of DECODE and COMPARE (R132). -/
def frameLengthFails (n : Nat) (s : State) : List (Bool × CmdError) :=
  [(decide (n % 8 ≠ 0), .length 1 n), (decide (n < 96), .length 2 n),
   (decide (s.cap .dtext < (n - 96) / 8), .capacity .dtext ((n - 96) / 8 : Nat))]

/-- The checks of CORRELATE on a despread length (R201, R202). -/
def correlateFails (m : Nat) (s : State) : List (Bool × CmdError) :=
  [(decide (m % s.nss.toNat ≠ 0), .length 5 m),
   (decide (s.lenOf .ref ≠ m), .length 6 (s.lenOf .ref)),
   (decide (s.cap .result < m / s.nss.toNat), .capacity .result (m / s.nss.toNat : Nat))]

/-- The checks of CONFIG (R111). -/
def configFails (s : State) : List (Bool × CmdError) :=
  let ns := roundHalfEven (sampleCount s)
  let sp := carrier s ns.toNat
  [(decide (s.sf.toInt ≤ 0), .config 1),
   (decide ((s.cap .codeA : Int) < s.sf.toInt), .capacity .codeA s.sf.toInt),
   (!isFinite s.fs || !fgt s.fs posZero, .config 2),
   (!isFinite s.fc || flt s.fc posZero, .config 3),
   (!fgt s.fs (fmul fTwo s.fc), .config 4),
   (!isFinite s.tsym || !fgt s.tsym posZero, .config 5),
   (!isFinite (sampleCount s), .config 6),
   (decide (ns < 1), .config 6),
   (decide ((s.cap .splus : Int) < ns), .capacity .splus ns),
   ((List.range ns.toNat).any (fun n => !isFinite (carrierSample s n)) || isZero (norm sp), .config 7)]

/-- The checks a command makes before it reads any buffer, in order: ConfigError 8 first where it applies
(R235), then the rule's own. Not here, because they come after a read: ENCODE's EncodingError and
CapacityError (R131) and MODULATE's ConfigErrors 9 to 12 (R182). -/
def errorChecks (i : Instr) (s : State) : List (Bool × CmdError) :=
  match i with
  | .nop => []
  | .config => configFails s
  | .pnSeed => []
  | .encode => fieldRangeFails s
  | .decode src => frameLengthFails (s.lenOf (bitRegion src)) s
  | .checksum => fieldRangeFails s
  | .compare src => frameLengthFails (s.lenOf (bitRegion src)) s
  | .pnGen _ _ => [unconfigured s]
  | .spread sel =>
    [unconfigured s, codeLengthFails sel s,
     (decide (s.cap .chips < s.lenOf .bits * s.lenOf (codeRegion sel)),
      .capacity .chips (s.lenOf .bits * s.lenOf (codeRegion sel) : Nat))]
  | .modulate noise intf _ gsrc =>
    [unconfigured s,
     (decide (s.cap .tx < s.lenOf .chips * s.ns.toNat), .capacity .tx (s.lenOf .chips * s.ns.toNat : Nat)),
     (intf && decide (s.lenOf .intf ≠ s.lenOf .chips * s.ns.toNat), .length 7 (s.lenOf .intf)),
     (noise && decide (gsrc = .gnoise) && decide (s.lenOf .gnoise ≠ s.lenOf .chips * s.ns.toNat),
      .length 8 (s.lenOf .gnoise))]
  | .refgen x => [unconfigured s, waveLengthFails x s]
  | .despread sel x => [unconfigured s, codeLengthFails sel s, waveLengthFails x s]
  | .correlate => unconfigured s :: correlateFails (s.lenOf .desp) s
  | .demod sel x =>
    unconfigured s :: codeLengthFails sel s :: waveLengthFails x s ::
      correlateFails (s.lenOf (waveRegion x)) s
  | .demodWrong x =>
    unconfigured s :: codeLengthFails .codeB s :: waveLengthFails x s ::
      correlateFails (s.lenOf (waveRegion x)) s

/-! ### The register map (10_state.md R22) -/

/-- What every listed register of R22 reads as: its index and its word. -/
def registerReads (s : State) : List (Nat × Word) :=
  let c := s.params.caps
  [(0x000, 0x5350554300070001), (0x001, if s.irqEn then 1 else 0), (0x002, s.statusWord),
   (0x003, s.errcode), (0x004, s.cmd), (0x008, s.fs), (0x009, s.fc), (0x00A, s.sf), (0x00B, s.tsym),
   (0x00C, s.snrDb), (0x00D, s.amp), (0x00E, s.phase), (0x00F, s.seed.zeroExtend 64), (0x010, s.tc),
   (0x011, BitVec.ofNat 64 (s.ns.toNat % 2 ^ 20)), (0x012, s.nss), (0x013, s.lfsr.zeroExtend 64),
   (0x040, if s.frameKind then 1 else 0), (0x060, s.cksum.zeroExtend 64), (0x061, s.cksumSum.zeroExtend 64),
   (0x062, s.mismatch.zeroExtend 64), (0x070, s.diagNormSig), (0x071, s.diagNormNoise),
   (0x072, s.diagScale)] ++
  [(0x1, Region.bits, c.bits), (0x2, .text, c.text), (0x3, .codeA, c.code), (0x4, .codeB, c.code),
    (0x5, .chips, c.chips), (0x6, .tx, c.samples), (0x7, .ref, c.samples), (0x8, .intf, c.samples),
    (0x9, .gnoise, c.samples), (0xA, .rx, c.samples), (0xB, .desp, c.samples), (0xC, .corr, c.syms),
    (0xD, .result, c.syms), (0xE, .dtext, c.dtext), (0xF, .splus, c.ns)].flatMap (fun e =>
    [(0x020 + e.1, BitVec.ofNat 64 (s.lenOf e.2.1)), (0x030 + e.1, BitVec.ofNat 64 e.2.2)]) ++
  (List.finRange 12).flatMap fun k =>
    [(0x041 + k.val, s.field[k]), (0x051 + k.val, s.dfield[k])]

/-- The read-only registers of R23: ID, ERRCODE, TC, NS, NSS, LFSR, LEN[15], CAP, DFIELD, CKSUM, CKSUM_SUM,
MISMATCH and the DIAG registers. -/
def readOnlyIndices : List Nat :=
  [0x000, 0x003, 0x010, 0x011, 0x012, 0x013, 0x02F] ++ (List.range 15).map (fun j => 0x031 + j) ++
    (List.range 12).map (fun j => 0x051 + j) ++ [0x060, 0x061, 0x062, 0x070, 0x071, 0x072]

end Sys2Proof.Machine
end

