-- ==== Sys2Proof/Certificates/Slice0/Obligations.lean ====
section
/-! DEFINITION. The statements for the provers. Each docstring names the rules of spec/ a statement comes
from; where a clause rests on a choice of the model it names the log entry. -/

open Sys2Proof Sys2Proof.Machine

/-! ### Encoding (30_encoding.md) -/

/-- The decoder answers a command for exactly the words the encoder writes: no option bit is dropped, and
no other word decodes (R91, R92, R93). -/
def Obligations.DecodeAnswersExactlyTheEncodedWord : Prop :=
  ∀ (w : Word) (i : Instr), Sys2Proof.decode w = .ok i ↔ w = Sys2Proof.encode i

/-- Exactly one row of the match and mask table matches a legal word, the one of its mnemonic, and none
matches an illegal word (R95). -/
def Obligations.EachLegalWordSpellsOneMnemonic : Prop :=
  ∀ w : Word,
    (∀ i, Sys2Proof.decode w = .ok i →
      (opcodeRows.filter fun r => r.spells w).map OpcodeRow.mnemonic = [i.mnemonic]) ∧
    ∀ e, Sys2Proof.decode w = .error e → (opcodeRows.filter fun r => r.spells w) = []

/-- An illegal command word completes with IllegalCommand, its checks in the order reserved opcode
(DETAIL 1), RSV not 0 (DETAIL 3), reserved option (DETAIL 2), INDEX being the word's bits 15:0; nothing but
the completion state changes (R233). -/
def Obligations.IllegalWordsCompleteWithIllegalCommand : Prop :=
  ∀ s : State, s.busy = true → s.env.agenda = [] →
    ((∀ r ∈ opcodeRows, r.pattern.toNat ≠ s.cmd.toNat % 256) →
      step s = .next (takeError (.illegal 1 (s.cmd.toNat % 65536)) s)) ∧
    ∀ r ∈ opcodeRows, r.pattern.toNat = s.cmd.toNat % 256 →
      (s.cmd.toNat / 65536 ≠ 0 →
        step s = .next (takeError (.illegal 3 (s.cmd.toNat % 65536)) s)) ∧
      (s.cmd.toNat / 65536 = 0 → s.cmd &&& r.mask ≠ r.pattern →
        step s = .next (takeError (.illegal 2 (s.cmd.toNat % 65536)) s))

/-- Words written out from the opcode map and the option table decode to the commands they stand for
(R91, R92, R96). -/
def Obligations.SampleWordsDecode : Prop :=
  Sys2Proof.decode 0x0000000000000001 = .ok .config ∧
  Sys2Proof.decode 0x0000000000000113 = .ok (.compare .result) ∧
  Sys2Proof.decode 0x0000000000000220 = .ok (.pnGen .codeA .entropy) ∧
  Sys2Proof.decode 0x0000000000000530 = .ok (.modulate true false true .internal) ∧
  Sys2Proof.decode 0x0000000000000342 = .ok (.demod .codeB .rx)

/-- The fields of the ERRCODE word of an error, from bit 0 up: CODE, DETAIL, INDEX, zeros (R27, R236); and
the word of each error in numbers: its code (R230), its detail, which for CapacityError is the region's
number (R232, R40), and its index cut to 32 bits (R234). -/
def Obligations.ErrcodeWordLayout : Prop :=
  ∀ (e : CmdError) (s : State),
    (takeError e s).errcode.extractLsb' 0 8 = BitVec.ofNat 8 e.code ∧
    (takeError e s).errcode.extractLsb' 8 8 = BitVec.ofNat 8 e.detail ∧
    (takeError e s).errcode.extractLsb' 16 32 = BitVec.ofInt 32 e.index ∧
    (takeError e s).errcode.extractLsb' 48 16 = 0 ∧
    (takeError e s).errcode.toNat =
      match e with
      | .range k => k % 2 ^ 32 * 65536 + 1
      | .encoding j => j % 2 ^ 32 * 65536 + 2
      | .length d n => n % 2 ^ 32 * 65536 + d % 256 * 256 + 3
      | .config d => d % 256 * 256 + 4
      | .illegal d low => low % 2 ^ 32 * 65536 + d % 256 * 256 + 5
      | .capacity r n => (n % 2 ^ 32).toNat * 65536 +
          (match r with
          | .bits => 1
          | .text => 2
          | .codeA => 3
          | .codeB => 4
          | .chips => 5
          | .tx => 6
          | .ref => 7
          | .intf => 8
          | .gnoise => 9
          | .rx => 10
          | .desp => 11
          | .corr => 12
          | .result => 13
          | .dtext => 14
          | .splus => 15) * 256 + 6

/-! ### The engine and its completion (60_exceptions.md) -/

/-- A step with the engine next to move executes the latched command, whether the engine's turn is the
oldest pending input or nothing is pending (log entry 2), and a command word placed by `withFetchWord` is
the one the next step executes (log entry 3). -/
def Obligations.StepRunsTheLatchedCommand : Prop :=
  ∀ (s : State) (i : Instr),
    (s.busy = true → Sys2Proof.decode s.cmd = .ok i →
      (s.env.agenda = [] → step s = exec i s) ∧
      ∀ rest, s.env.agenda = .engine :: rest → step s = exec i s.popInput) ∧
    ∀ nbits w, decodeTableWord nbits w = some i →
      step (s.withFetchWord nbits w) = exec i (issue (tableWord nbits w) s)

/-- A step performs the oldest pending input on the state with that input taken off, and the engine idles
while no command is pending (R20, R260; the agenda is log entry 2). An access at the host address of a word,
`BASE_ADDR` and the words after it in order, is the bus transaction on that word; outside the block's range
it does not reach the block, and between two words the model stops (R78, R245; the spacing of the words and
what lies between them are log entry 18). -/
def Obligations.StepPerformsTheOldestInput : Prop :=
  ∀ s : State,
    (∀ ev rest, s.env.agenda = ev :: rest →
      step s = perform ev s.popInput ∧ s.popInput.env.agenda = rest ∧
        { s.popInput with env := s.env } = s) ∧
    (1 ≤ s.params.addrStride → ∀ (a : BusAddr) (w : Word),
      perform (.hostRead (s.params.baseAddr + s.params.addrStride * a.toNat)) s = busRead a s ∧
      perform (.hostWrite (s.params.baseAddr + s.params.addrStride * a.toNat) w) s = busWrite a w s) ∧
    (∀ (h : Nat) (w : Word),
      (h < s.params.baseAddr ∨ s.params.baseAddr + s.params.addrStride * 2 ^ 24 ≤ h) →
      perform (.hostRead h) s = .next s ∧ perform (.hostWrite h w) s = .next s) ∧
    (∀ (h : Nat) (w : Word), s.params.baseAddr ≤ h →
      h < s.params.baseAddr + s.params.addrStride * 2 ^ 24 →
      (∀ a : BusAddr, h ≠ s.params.baseAddr + s.params.addrStride * a.toNat) →
      perform (.hostRead h) s = .fault (if s.busy then .busyHazard else .hostBusError) ∧
      perform (.hostWrite h w) s = .fault (if s.busy then .busyHazard else .hostBusError)) ∧
    (s.busy = false → s.env.agenda = [] → step s = .next s) ∧
    ∀ rest, s.busy = false → s.env.agenda = .engine :: rest → step s = .next s.popInput

/-- Host polling does not disturb a pending command: after any number of the reads allowed while BUSY = 1
the command is still pending on an unchanged block, and the engine's turn then executes it (R262, R275; the
agenda is log entry 2, the polls' host addresses log entry 18). -/
def Obligations.EngineExecutesAfterPolls : Prop :=
  ∀ (s : State) (i : Instr),
    s.busy = true → onlyPolls s = true → Sys2Proof.decode s.cmd = .ok i →
      ∃ u, Sys2Proof.core.run s.env.agenda.length s = .next u ∧
        { u with env := s.env } = s ∧
        u.env = { s.env with agenda := [], rdata := u.env.rdata } ∧
        Sys2Proof.core.run (s.env.agenda.length + 1) s = exec i u

/-- All or nothing: a command that completes with an error has changed BUSY, DONE, ERR and ERRCODE and no
other register, no length and no element; ERRCODE is the word of one of the listed errors (R237, R236, R234). The
environment is left out of the comparison, since a draw made before the error stays made (log entry 6). -/
def Obligations.ErrorsChangeOnlyCompletionState : Prop :=
  ∀ (i : Instr) (s t : State), exec i s = .next t → t.err = true →
    ∃ e : CmdError, e.listed ∧ t.errcode = e.word ∧ t.busy = false ∧ t.done = true ∧
      { t with env := s.env, busy := s.busy, done := s.done, err := s.err, errcode := s.errcode } = s

/-- The environment is the commands' to read only through the two draws of R7: the inputs still to come
and the last word read are kept, and so are the draws of a command that makes none. A draw gives the values
its source is to supply, whatever they are, and takes them (log entries 2 and 6). -/
def Obligations.OnlyDrawsReachTheEnvironment : Prop :=
  (∀ (i : Instr) (s t : State), exec i s = .next t →
    t.env.agenda = s.env.agenda ∧ t.env.rdata = s.env.rdata ∧
    ((∀ dst, i ≠ .pnGen dst .entropy) →
      t.env.entropyIn = s.env.entropyIn ∧ t.env.entropyCount = s.env.entropyCount) ∧
    ((∀ intf diag, i ≠ .modulate true intf diag .internal) →
      t.env.gaussIn = s.env.gaussIn ∧ t.env.gaussCount = s.env.gaussCount)) ∧
  (∀ (s : State) (gs rest : List F64), s.env.gaussIn = gs ++ rest →
    (drawGauss gs.length s).1 = gs ∧
    (drawGauss gs.length s).2 =
      { s with env := { s.env with gaussIn := rest, gaussCount := s.env.gaussCount + gs.length } }) ∧
  ∀ (s : State) (bs rest : List Bool), s.env.entropyIn = bs ++ rest →
    (drawEntropy bs.length s).1 = bs ∧
    (drawEntropy bs.length s).2 =
      { s with env := { s.env with
          entropyIn := rest, entropyCount := s.env.entropyCount + bs.length } }

/-- A command stops the model only by reading an unwritten element of a region's current sequence (of
SPLUS, of its NS samples), and is never refused (R42, R70, R240). -/
def Obligations.CommandsFaultOnlyOnUnwrittenElements : Prop :=
  ∀ (i : Instr) (s : State), s.mem.wf = true →
    (∀ f, exec i s = .fault f →
      f = .uninitRead ∧ ∃ r k, s.elem r k = none ∧
        (k < s.lenOf r ∨ r = .splus ∧ k < s.ns.toNat)) ∧
    ∀ q, exec i s ≠ .refused q

/-- A completion writes BUSY, DONE and ERR: ERR is 0 with ERRCODE kept, or 1 with ERRCODE the word of a listed
error; each of the other flags has the one command that writes it (R26, R27, R45, R236; that ERR is written
as 0 and ERRCODE kept is log entry 14). -/
def Obligations.FlagsHaveOneWriter : Prop :=
  ∀ (i : Instr) (s t : State), exec i s = .next t →
    t.busy = false ∧ t.done = true ∧
    (t.err = false ∧ t.errcode = s.errcode ∨
      t.err = true ∧ ∃ e : CmdError, e.listed ∧ t.errcode = e.word) ∧
    (t.cmpOk ≠ s.cmpOk → ∃ src, i = .compare src) ∧
    (t.cfgValid ≠ s.cfgValid → i = .config ∧ t.cfgValid = true)

/-- No command changes a register the host writes, nor the instance's parameters; each result register is
changed only by the commands its rule names (R28 to R43). -/
def Obligations.RegistersHaveTheirWriters : Prop :=
  ∀ (i : Instr) (s t : State), exec i s = .next t →
    (t.irqEn = s.irqEn ∧ t.cmd = s.cmd ∧ t.fs = s.fs ∧ t.fc = s.fc ∧ t.sf = s.sf ∧
      t.tsym = s.tsym ∧ t.snrDb = s.snrDb ∧ t.amp = s.amp ∧ t.phase = s.phase ∧ t.seed = s.seed ∧
      t.frameKind = s.frameKind ∧ t.field = s.field ∧ t.params = s.params) ∧
    (i ≠ .config → t.tc = s.tc ∧ t.ns = s.ns ∧ t.nss = s.nss) ∧
    (i ≠ .pnSeed → (∀ dst, i ≠ .pnGen dst .lfsr) → t.lfsr = s.lfsr) ∧
    ((∀ src, i ≠ .decode src) → (∀ src, i ≠ .compare src) → t.dfield = s.dfield) ∧
    (i ≠ .checksum → t.cksum = s.cksum ∧ t.cksumSum = s.cksumSum) ∧
    ((∀ src, i ≠ .compare src) → t.mismatch = s.mismatch) ∧
    ((∀ noise intf gsrc, i ≠ .modulate noise intf true gsrc) →
      t.diagNormSig = s.diagNormSig ∧ t.diagNormNoise = s.diagNormNoise ∧ t.diagScale = s.diagScale)

/-- A command leaves every element and every length of the regions it does not produce, and in those it
produces every element at or above the new length (R40, R42, R264). -/
def Obligations.CommandsWriteOnlyTheirRegions : Prop :=
  ∀ (i : Instr) (s t : State), exec i s = .next t → KeepsElements (outputsOf i) s t

/-- A command whose checks fail reports the first that fails, in the order its rule lists them (R235; R111,
R131 to R134, R164, R181, R184, R200 to R203): ConfigError 8 first for the eight commands that need a
configuration. The checks that come after a read are in the two statements
below. -/
def Obligations.FirstFailingCheckIsReported : Prop :=
  ∀ (i : Instr) (s : State) (e : CmdError), firstFailing (errorChecks i s) = some e →
    exec i s = .next (takeError e s)

/-- ENCODE of in-range fields reports the first text character above 127, and, where there is none, a frame
that does not fit BITS (R131). -/
def Obligations.EncodeReportsTextErrors : Prop :=
  ∀ s : State, FieldsInRange s →
    (∀ j w, j < textCount s → s.elem .text j = some w → 127 < elemCodePoint w →
      Written s .text j → (∀ k, k < j → s.codePointAt .text k ≤ 127) →
      exec .encode s = .next (takeError (.encoding j) s)) ∧
    (Written s .text (textCount s) → (∀ k, k < textCount s → s.codePointAt .text k ≤ 127) →
      s.cap .bits < 96 + 8 * textCount s →
      exec .encode s = .next (takeError (.capacity .bits (96 + 8 * textCount s : Nat)) s))

/-- MODULATE with noise, its other checks passed, reports ConfigErrors 9, 10, 11 and 12 in that order
(R182). That the draw of errors 11 and 12 stays made is log entry 6. -/
def Obligations.ModulateReportsNoiseErrors : Prop :=
  ∀ (intf diag : Bool) (gsrc : GaussSource) (s : State), ModulateReady intf s → NoiseReady gsrc s →
    (isFinite s.snrDb = false →
      exec (.modulate true intf diag gsrc) s = .next (takeError (.config 9) s)) ∧
    (isFinite s.snrDb = true →
      (isFinite (Machine.norm (cleanWave s)) = false ∨ isZero (Machine.norm (cleanWave s)) = true) →
      exec (.modulate true intf diag gsrc) s = .next (takeError (.config 10) s)) ∧
    (isFinite s.snrDb = true →
      isFinite (Machine.norm (cleanWave s)) = true → isZero (Machine.norm (cleanWave s)) = false →
      ((isFinite (Machine.norm (noiseOf gsrc s)) = false ∨
          isZero (Machine.norm (noiseOf gsrc s)) = true) →
        exec (.modulate true intf diag gsrc) s =
          .next (takeError (.config 11) (afterDraw gsrc s))) ∧
      (isFinite (Machine.norm (noiseOf gsrc s)) = true →
        isZero (Machine.norm (noiseOf gsrc s)) = false → isFinite (scaleOf gsrc s) = false →
        exec (.modulate true intf diag gsrc) s =
          .next (takeError (.config 12) (afterDraw gsrc s))))

/-! ### Control commands (40_control.md) -/

/-- NOP: its word, its completion, and that issuing and completing it clears an earlier error and leaves
every other register and every element as it was; from reset only STATUS changes, to DONE (R110). -/
def Obligations.NopOnlyCompletes : Prop :=
  Sys2Proof.decode 0x0000000000000000 = .ok .nop ∧
  (∀ s : State, exec .nop s = .next { s with busy := false, done := true, err := false }) ∧
  (∀ s : State, s.env.agenda = [] →
    step (issue 0 s) =
      .next { s with cmd := 0, errcode := 0, busy := false, done := true, err := false }) ∧
  step (issue 0 State.reset) = .next { State.reset with done := true } ∧
  { State.reset with done := true }.statusWord = 0x2

/-- CONFIG whose inputs pass every check derives TC, NS, NSS and the carrier of NS samples, sets CFG_VALID,
and changes nothing else: `TC = TSYM/SF`, `NS = round((TC - 1/FS)·FS)`, sample `n` is
`AMP·fcos((TWO_PI·FC)·(n·(1/FS)) + PHASE)`, each in the order of R111's operations; FC = -0.0 behaves as
+0.0 (R111, corner cases). -/
def Obligations.ConfigDerivesTheCarrier : Prop :=
  ∀ s : State, ConfigReady s →
    ∃ t, exec .config s = .next t ∧
      { t with mem := s.mem, len := s.len, tc := s.tc, ns := s.ns, nss := s.nss,
               cfgValid := s.cfgValid } = completeOk s ∧
      KeepsElements [.splus] s t ∧
      t.tc = fdiv s.tsym (i2f s.sf.toInt) ∧
      (t.ns.toNat : Int) =
        roundHalfEven (fmul (fsub t.tc (fdiv 0x3FF0000000000000 s.fs)) s.fs) ∧
      (t.nss.toNat : Int) = t.ns.toNat * s.sf.toInt ∧
      t.cfgValid = true ∧ t.lenOf .splus = t.ns.toNat ∧
      let fc := if s.fc = 0x8000000000000000 then 0x0000000000000000 else s.fc
      ∀ n, n < t.ns.toNat →
        t.elem .splus n = some (fmul s.amp (fcos s.params
          (fadd (fmul (fmul 0x401921FB54442D18 fc) (fmul (i2f n) (fdiv 0x3FF0000000000000 s.fs)))
            s.phase)))

/-! ### The frame codec (41_frame_codec.md) -/

/-- ENCODE writes the frame of R130: `96 + 8·T` bits, each field's byte `FIELD[k] mod 256` and then each
character's code, most significant bit first. -/
def Obligations.EncodeLaysOutTheFrame : Prop :=
  ∀ s : State, EncodeReady s →
    ∃ t, exec .encode s = .next t ∧ CompletedInto [.bits] s t ∧
      t.lenOf .bits = 96 + 8 * textCount s ∧
      (∀ (k : Fin 12) (b : Nat), b < 8 →
        t.elem .bits (8 * k.val + b) =
          some (bitElem ((s.field[k].toInt % 256).toNat.testBit (7 - b)))) ∧
      ∀ j b, j < textCount s → b < 8 →
        t.elem .bits (96 + 8 * j + b) =
          some (bitElem ((s.codePointAt .text j).testBit (7 - b)))

/-- DECODE of either source writes the twelve fields, a byte above 127 read as negative, and the residual
bytes as text, and changes nothing else (R132). -/
def Obligations.DecodeReadsTheFrame : Prop :=
  ∀ (src : BitSource) (s : State), DecodeReady src s →
    ∃ t, exec (.decode src) s = .next t ∧
      { t with mem := s.mem, len := s.len, dfield := s.dfield } = completeOk s ∧
      KeepsElements [.dtext] s t ∧
      t.lenOf .dtext = (s.lenOf (bitRegion src) - 96) / 8 ∧
      (∀ k : Fin 12, t.dfield[k].toInt = byteField (s.groupByte (bitRegion src) k.val)) ∧
      ∀ j, j < t.lenOf .dtext →
        t.elem .dtext j = some (BitVec.ofNat 64 (s.groupByte (bitRegion src) (12 + j)))

/-- COMPARE writes what DECODE writes, a mismatch bit for each field that differs and one for the text of a
text frame, and CMP_OK; nothing else changes (R134). -/
def Obligations.CompareMarksTheDifferences : Prop :=
  ∀ (src : BitSource) (s : State), CompareReady src s →
    ∃ t, exec (.compare src) s = .next t ∧
      { t with mem := s.mem, len := s.len, dfield := s.dfield, mismatch := s.mismatch,
               cmpOk := s.cmpOk } = completeOk s ∧
      KeepsElements [.dtext] s t ∧
      t.lenOf .dtext = (s.lenOf (bitRegion src) - 96) / 8 ∧
      (∀ k : Fin 12, t.dfield[k].toInt = byteField (s.groupByte (bitRegion src) k.val)) ∧
      (∀ j, j < t.lenOf .dtext →
        t.elem .dtext j = some (BitVec.ofNat 64 (s.groupByte (bitRegion src) (12 + j)))) ∧
      (∀ k : Fin 12, t.mismatch.getLsbD k.val = true ↔ t.dfield[k].toInt ≠ s.field[k].toInt) ∧
      (t.mismatch.getLsbD 12 = true ↔ s.frameKind = true ∧
        (t.lenOf .dtext ≠ s.lenOf .text ∨
          ∃ j, j < t.lenOf .dtext ∧
            s.groupByte (bitRegion src) (12 + j) ≠ s.codePointAt .text j)) ∧
      (t.cmpOk = true ↔ t.mismatch = 0)

/-- CHECKSUM of in-range fields writes the sum of their unsigned bytes, untruncated and mod 256, and nothing
else; otherwise it reports the first field out of range (R133). -/
def Obligations.ChecksumSumsTheFieldBytes : Prop :=
  Sys2Proof.decode 0x0000000000000012 = .ok .checksum ∧
  ∀ s : State,
    (FieldsInRange s →
      ∃ t, exec .checksum s = .next t ∧
        { t with cksum := s.cksum, cksumSum := s.cksumSum } = completeOk s ∧
        t.cksumSum.toNat =
          ((List.finRange 12).map fun k => (s.field[k].toInt % 256).toNat).sum ∧
        t.cksum.toNat = t.cksumSum.toNat % 256 ∧ t.cksumSum.toNat ≤ 3060) ∧
    ∀ k : Fin 12, (s.field[k].toInt < -128 ∨ 127 < s.field[k].toInt) →
      (∀ j : Fin 12, j < k → -128 ≤ s.field[j].toInt ∧ s.field[j].toInt ≤ 127) →
      exec .checksum s = .next (takeError (.range (k.val + 1)) s)

/-- Two frames with equal fields have equal CKSUM and CKSUM_SUM, whatever their text: the checksum is a
function of FIELD alone, and so is whether it is computed (R136). -/
def Obligations.ChecksumDependsOnFieldsAlone : Prop :=
  ∀ s s' t : State, s.field = s'.field → exec .checksum s = .next t → t.err = false →
    ∃ t', exec .checksum s' = .next t' ∧ t'.err = false ∧
      t'.cksum = t.cksum ∧ t'.cksumSum = t.cksumSum

/-- Codec round trip: ENCODE then DECODE gives the fields and the text back, and a second ENCODE from what
was decoded writes the same bits (R135). -/
def Obligations.CodecRoundTrip : Prop :=
  ∀ s : State, s.mem.wf = true → EncodeReady s → textCount s ≤ s.cap .dtext →
    ∃ t u, exec .encode s = .next t ∧ exec (.decode .bits) t = .next u ∧ u.err = false ∧
      u.dfield = s.field ∧ u.lenOf .dtext = textCount s ∧
      (∀ j, j < textCount s → u.elem .dtext j = some (BitVec.ofNat 64 (s.codePointAt .text j))) ∧
      ∀ v : State, v.params = s.params → v.field = u.dfield → textCount v = u.lenOf .dtext →
        (∀ j, j < textCount v → v.elem .text j = u.elem .dtext j) →
        ∃ x, exec .encode v = .next x ∧ x.lenOf .bits = t.lenOf .bits ∧
          ∀ k, k < t.lenOf .bits → x.elem .bits k = t.elem .bits k

/-! ### Spreading (42_spreading.md) -/

/-- PN_SEED loads the generator from SEED, needs no configuration, and changes nothing else (R160). -/
def Obligations.PnSeedLoadsTheGenerator : Prop :=
  Sys2Proof.decode 0x0000000000000002 = .ok .pnSeed ∧
  (∀ s : State, exec .pnSeed s = .next (completeOk { s with lfsr := s.seed })) ∧
  ∀ s t : State, s.seed ≠ 0 → exec .pnSeed s = .next t → t.lfsr ≠ 0

/-- One step of the generator, its period of 65535 from every non-zero state, and its first outputs from
0xACE1 (R161). -/
def Obligations.GeneratorStepAndPeriod : Prop :=
  (∀ x : BitVec 16,
    (lfsrStep x).1 = x.getLsbD 0 ∧
    (∀ j, j < 15 → (lfsrStep x).2.getLsbD j = x.getLsbD (j + 1)) ∧
    (lfsrStep x).2.getLsbD 15 =
      (((x.getLsbD 0 ^^ x.getLsbD 2) ^^ x.getLsbD 3) ^^ x.getLsbD 5)) ∧
  (∀ x : BitVec 16, x ≠ 0 →
    lfsrAfter 65535 x = x ∧ ∀ k, 0 < k → k < 65535 → lfsrAfter k x ≠ x) ∧
  (lfsrRun 8 0xACE1).1 = [true, false, false, false, false, true, true, true] ∧
  lfsrAfter 4 0xACE1 = 0x2ACE ∧ lfsrAfter 8 0xACE1 = 0x22AC

/-- PN_GEN writes a code of SF values into the selected region: from the generator, which advances by SF
steps, or from the entropy draw, which leaves the generator and may give any sequence; nothing else changes
(R162; the supply of the draw is log entry 6). -/
def Obligations.PnGenWritesACode : Prop :=
  ∀ (dst : CodeSel) (s : State), s.cfgValid = true →
    (∃ t, exec (.pnGen dst .lfsr) s = .next t ∧
      { t with mem := s.mem, len := s.len, lfsr := s.lfsr } = completeOk s ∧
      KeepsElements [codeRegion dst] s t ∧
      t.lenOf (codeRegion dst) = s.sf.toInt.toNat ∧
      t.lfsr = lfsrAfter s.sf.toInt.toNat s.lfsr ∧
      ∀ k, k < s.sf.toInt.toNat →
        t.elem (codeRegion dst) k = some (bitElem (lfsrStep (lfsrAfter k s.lfsr)).1)) ∧
    ∃ t, exec (.pnGen dst .entropy) s = .next t ∧
      { t with mem := s.mem, len := s.len, env := s.env } = completeOk s ∧
      KeepsElements [codeRegion dst] s t ∧
      t.lenOf (codeRegion dst) = s.sf.toInt.toNat ∧
      ∀ (bs rest : List Bool), s.env.entropyIn = bs ++ rest → bs.length = s.sf.toInt.toNat →
        ∀ k, k < s.sf.toInt.toNat → t.elem (codeRegion dst) k = (bs[k]?).map bitElem

/-- SPREAD writes `LEN[BITS] × F` chips, chip `k` the product of bit `k div F` and code value `k mod F`,
and changes nothing else (R164). -/
def Obligations.SpreadMultipliesBitsByCode : Prop :=
  ∀ (sel : CodeSel) (s : State), SpreadReady sel s →
    ∃ t, exec (.spread sel) s = .next t ∧ CompletedInto [.chips] s t ∧
      t.lenOf .chips = s.lenOf .bits * s.lenOf (codeRegion sel) ∧
      ∀ k, k < t.lenOf .chips →
        t.elem .chips k = some (bitElem (bipMul (s.bitAt .bits (k / s.lenOf (codeRegion sel)))
          (s.bitAt (codeRegion sel) (k % s.lenOf (codeRegion sel)))))

/-- Spreading law: chip `k` is `bip(bit[k div F]) × code[k mod F]`, and multiplying it again by
`code[k mod F]` gives back the symbol (R165). -/
def Obligations.SpreadingTwiceGivesTheSymbol : Prop :=
  ∀ (sel : CodeSel) (s t : State), s.mem.wf = true → exec (.spread sel) s = .next t → t.err = false →
    ∀ k, k < t.lenOf .chips →
      let f := s.sf.toInt.toNat
      bipInt (t.bitAt .chips k) =
        bipInt (s.bitAt .bits (k / f)) * bipInt (s.bitAt (codeRegion sel) (k % f)) ∧
      bipInt (t.bitAt .chips k) * bipInt (s.bitAt (codeRegion sel) (k % f)) =
        bipInt (s.bitAt .bits (k / f))

/-! ### Modulation (43_modulator.md) -/

/-- MODULATE without noise, of either GSRC: TX is the clean waveform, plus INTF sample by sample when that is
asked for; REF is one carrier per chip; the diagnostic registers are written only with DIAG; nothing else
changes (R180, R181, R183, R185). -/
def Obligations.ModulateCleanWaveform : Prop :=
  ∀ (intf diag : Bool) (gsrc : GaussSource) (s : State), ModulateReady intf s →
    ∃ t, exec (.modulate false intf diag gsrc) s = .next t ∧
      { t with mem := s.mem, len := s.len, diagNormSig := s.diagNormSig,
               diagNormNoise := s.diagNormNoise, diagScale := s.diagScale } = completeOk s ∧
      KeepsElements [.tx, .ref] s t ∧
      t.lenOf .tx = modulateLength s ∧ t.lenOf .ref = modulateLength s ∧
      (∀ k, k < modulateLength s →
        let clean := signed (s.bitAt .chips (k / s.ns.toNat)) (s.sampleAt .splus (k % s.ns.toNat))
        t.elem .tx k = some (if intf then fadd clean (s.sampleAt .intf k) else clean) ∧
        t.elem .ref k = some (s.sampleAt .splus (k % s.ns.toNat))) ∧
      (t.diagNormSig, t.diagNormNoise, t.diagScale) =
        if diag then (Machine.norm (cleanWave s), posZero, posZero)
        else (s.diagNormSig, s.diagNormNoise, s.diagScale)

/-- MODULATE with noise, of either source: the draw scaled to the requested norm ratio is added to the clean
waveform, then INTF when that is asked for; REF, the diagnostic registers and the frame as without noise
(R181, R182, R183, R185). -/
def Obligations.ModulateNoisyWaveform : Prop :=
  ∀ (intf diag : Bool) (gsrc : GaussSource) (s : State),
    ModulateReady intf s → NoiseReady gsrc s → NoisePasses gsrc s →
    ∃ t, exec (.modulate true intf diag gsrc) s = .next t ∧
      { t with mem := s.mem, len := s.len, diagNormSig := s.diagNormSig,
               diagNormNoise := s.diagNormNoise, diagScale := s.diagScale } =
        completeOk (afterDraw gsrc s) ∧
      KeepsElements [.tx, .ref] s t ∧
      t.lenOf .tx = modulateLength s ∧ t.lenOf .ref = modulateLength s ∧
      (∀ k, k < modulateLength s →
        let clean := signed (s.bitAt .chips (k / s.ns.toNat)) (s.sampleAt .splus (k % s.ns.toNat))
        let noisy := fadd clean (fmul ((noiseOf gsrc s).getD k 0) (scaleOf gsrc s))
        t.elem .tx k = some (if intf then fadd noisy (s.sampleAt .intf k) else noisy) ∧
        t.elem .ref k = some (s.sampleAt .splus (k % s.ns.toNat))) ∧
      (t.diagNormSig, t.diagNormNoise, t.diagScale) =
        if diag then
          (Machine.norm (cleanWave s),
            Machine.norm ((noiseOf gsrc s).map fun x => fmul x (scaleOf gsrc s)), scaleOf gsrc s)
        else (s.diagNormSig, s.diagNormNoise, s.diagScale)

/-- Purity: MODULATE without noise depends on CHIPS, its length, NS, SPLUS and, with INTF, INTF alone; with
noise on SNR_DB and the draw or GNOISE besides. What it writes is TX, REF and, with DIAG, the diagnostic
registers (R186, R181, R185; fpow10 is the instance's, R7). -/
def Obligations.ModulateDependsOnItsInputsAlone : Prop :=
  ∀ (noise intf diag : Bool) (gsrc : GaussSource) (s s' t t' : State),
    s.mem.wf = true → s'.mem.wf = true →
    exec (.modulate noise intf diag gsrc) s = .next t → t.err = false →
    exec (.modulate noise intf diag gsrc) s' = .next t' → t'.err = false →
    s.lenOf .chips = s'.lenOf .chips → s.ns = s'.ns →
    (∀ k, k < s.lenOf .chips → s.elem .chips k = s'.elem .chips k) →
    (∀ k, k < s.ns.toNat → s.elem .splus k = s'.elem .splus k) →
    (intf = true → ∀ k, k < modulateLength s → s.elem .intf k = s'.elem .intf k) →
    (noise = true → s.snrDb = s'.snrDb ∧ fpow10 s.params (fdiv s.snrDb fTwenty) =
        fpow10 s'.params (fdiv s'.snrDb fTwenty) ∧
      match gsrc with
      | .internal => noiseOf .internal s = noiseOf .internal s'
      | .gnoise => ∀ k, k < modulateLength s → s.elem .gnoise k = s'.elem .gnoise k) →
    t.lenOf .tx = t'.lenOf .tx ∧ t.lenOf .ref = t'.lenOf .ref ∧
      (∀ k, k < t.lenOf .tx → t.elem .tx k = t'.elem .tx k) ∧
      (∀ k, k < t.lenOf .ref → t.elem .ref k = t'.elem .ref k) ∧
      (diag = true → t.diagNormSig = t'.diagNormSig ∧ t.diagNormNoise = t'.diagNormNoise ∧
        t.diagScale = t'.diagScale)

/-- REFGEN writes a reference carrier of the selected waveform's length and nothing else (R184). -/
def Obligations.RefgenTilesTheCarrier : Prop :=
  ∀ (x : WaveSel) (s : State), RefgenReady x s →
    ∃ t, exec (.refgen x) s = .next t ∧ CompletedInto [.ref] s t ∧
      t.lenOf .ref = s.lenOf (waveRegion x) ∧
      ∀ k, k < t.lenOf .ref → t.elem .ref k = some (s.sampleAt .splus (k % s.ns.toNat))

/-! ### Demodulation (44_demodulator.md) -/

/-- DESPREAD keeps or negates each sample by the code value of its chip, the code tiled over the message,
and writes nothing else (R200). -/
def Obligations.DespreadRemovesTheCode : Prop :=
  ∀ (sel : CodeSel) (x : WaveSel) (s : State), DespreadReady sel x s →
    ∃ t, exec (.despread sel x) s = .next t ∧ CompletedInto [.desp] s t ∧
      t.lenOf .desp = s.lenOf (waveRegion x) ∧
      ∀ k, k < t.lenOf .desp → t.elem .desp k = some (despreadAt sel x s k)

/-- CORRELATE writes each symbol's inner product of REF and DESP, summed in sample order, and its hard
decision, and nothing else (R201). -/
def Obligations.CorrelateSumsEachSymbol : Prop :=
  ∀ s : State, s.mem.wf = true → s.cfgValid = true → CorrelateReady (s.lenOf .desp) s →
    Written s .desp (s.lenOf .desp) →
    ∃ t, exec .correlate s = .next t ∧ CompletedInto [.corr, .result] s t ∧
      t.lenOf .corr = s.lenOf .desp / s.nss.toNat ∧
      t.lenOf .result = s.lenOf .desp / s.nss.toNat ∧
      ∀ k, k < s.lenOf .desp / s.nss.toNat →
        t.elem .corr k = some (correlationAt s (s.sampleAt .desp) k) ∧
        t.elem .result k =
          some (bitElem (fgt (correlationAt s (s.sampleAt .desp) k) posZero))

/-- The decision at its edges: a zero of either sign, a NaN and -infinity give -1, +infinity and every
positive finite sum +1 (R201). -/
def Obligations.DecisionEdges : Prop :=
  decision 0x0000000000000000 = false ∧ decision 0x8000000000000000 = false ∧
  decision 0x7FF0000000000000 = true ∧ decision 0xFFF0000000000000 = false ∧
  (∀ a : F64, isNaN a = true → decision a = false) ∧
  ∀ a : F64, isFinite a = true → (decision a = true ↔ 0 < signedUnits a)

/-- DEMOD, and DEMOD_WRONG with CODEB, write DESP, CORR and RESULT from the selected waveform and nothing
else (R202, R203). -/
def Obligations.DemodRecoversDecisions : Prop :=
  ∀ (sel : CodeSel) (x : WaveSel) (s : State), DespreadReady sel x s →
    CorrelateReady (s.lenOf (waveRegion x)) s →
    ∃ t, exec (.demod sel x) s = .next t ∧ (sel = .codeB → exec (.demodWrong x) s = .next t) ∧
      CompletedInto [.desp, .corr, .result] s t ∧
      t.lenOf .desp = s.lenOf (waveRegion x) ∧
      t.lenOf .corr = s.lenOf (waveRegion x) / s.nss.toNat ∧
      t.lenOf .result = s.lenOf (waveRegion x) / s.nss.toNat ∧
      (∀ k, k < t.lenOf .desp → t.elem .desp k = some (despreadAt sel x s k)) ∧
      ∀ k, k < t.lenOf .result →
        t.elem .corr k = some (correlationAt s (despreadAt sel x s) k) ∧
        t.elem .result k =
          some (bitElem (fgt (correlationAt s (despreadAt sel x s) k) posZero))

/-- DEMOD is DESPREAD followed by CORRELATE: where the two complete without error, DEMOD ends in the same
state (R202). -/
def Obligations.DemodIsDespreadThenCorrelate : Prop :=
  ∀ (sel : CodeSel) (x : WaveSel) (s u t : State),
    exec (.despread sel x) s = .next u → u.err = false →
    exec .correlate u = .next t → t.err = false →
    exec (.demod sel x) s = .next t

/-- DEMOD_WRONG is DEMOD with CODESEL = 1, on every state; its two words, and that OPT[0] is reserved
(R203). -/
def Obligations.DemodWrongIsDemodWithCodeB : Prop :=
  (∀ (x : WaveSel) (s : State), exec (.demodWrong x) s = exec (.demod .codeB x) s) ∧
  Sys2Proof.decode 0x0000000000000043 = .ok (.demodWrong .tx) ∧
  Sys2Proof.decode 0x0000000000000243 = .ok (.demodWrong .rx) ∧
  Sys2Proof.decode 0x0000000000000143 = .error .reservedOption

/-- Noiseless round trip: SPREAD, MODULATE and DEMOD with one code give every bit back, exactly (R204). -/
def Obligations.NoiselessRoundTrip : Prop :=
  ∀ (sel : CodeSel) (s : State), s.Inv → SpreadReady sel s →
    s.lenOf .bits * s.lenOf (codeRegion sel) * s.ns.toNat ≤ s.cap .tx →
    s.lenOf .bits ≤ s.cap .result →
    ∃ a b c, exec (.spread sel) s = .next a ∧
      exec (.modulate false false false .internal) a = .next b ∧
      exec (.demod sel .tx) b = .next c ∧ c.err = false ∧
      c.lenOf .result = s.lenOf .bits ∧
      ∀ k, k < s.lenOf .bits → c.elem .result k = some (bitElem (s.bitAt .bits k))

/-- The whole link without noise: ENCODE, SPREAD, MODULATE, DEMOD, then COMPARE of RESULT finds the frame
that was sent (R204). -/
def Obligations.NoiselessLinkRecoversTheFrame : Prop :=
  ∀ (sel : CodeSel) (s : State), s.Inv → EncodeReady s → s.cfgValid = true →
    (s.lenOf (codeRegion sel) : Int) = s.sf.toInt →
    Written s (codeRegion sel) (s.lenOf (codeRegion sel)) →
    (96 + 8 * textCount s) * s.lenOf (codeRegion sel) ≤ s.cap .chips →
    (96 + 8 * textCount s) * s.lenOf (codeRegion sel) * s.ns.toNat ≤ s.cap .tx →
    96 + 8 * textCount s ≤ s.cap .result → textCount s ≤ s.cap .dtext →
    ∃ a b c d e, exec .encode s = .next a ∧ exec (.spread sel) a = .next b ∧
      exec (.modulate false false false .internal) b = .next c ∧
      exec (.demod sel .tx) c = .next d ∧ exec (.compare .result) d = .next e ∧
      e.err = false ∧ e.cmpOk = true ∧ e.mismatch = 0 ∧ e.dfield = s.field

/-- A noiseless signal demodulated with the negated code: every decision is inverted, exactly (R206). -/
def Obligations.NegatedCodeInvertsEveryBit : Prop :=
  ∀ s : State, s.Inv → SpreadReady .codeA s →
    (s.lenOf .codeB : Int) = s.sf.toInt → Written s .codeB (s.lenOf .codeB) →
    (∀ k, k < s.lenOf .codeA → s.bitAt .codeB k = !s.bitAt .codeA k) →
    s.lenOf .bits * s.lenOf .codeA * s.ns.toNat ≤ s.cap .tx → s.lenOf .bits ≤ s.cap .result →
    ∃ a b c, exec (.spread .codeA) s = .next a ∧
      exec (.modulate false false false .internal) a = .next b ∧
      exec (.demodWrong .tx) b = .next c ∧ c.err = false ∧
      c.lenOf .result = s.lenOf .bits ∧
      ∀ k, k < s.lenOf .bits → c.elem .result k = some (bitElem (!s.bitAt .bits k))

/-- Two transmitters: message `α` in BITS is spread with CODEA and modulated with the waveform of message
`β` under CODEB as interference. DEMOD with either code recovers its message at every symbol where the
two codes' products take the value `bip(α_i)·bip(β_i)`, and -1 elsewhere (R205). -/
def Obligations.TwoTransmittersSuperpose : Prop :=
  ∀ (s : State) (β : Nat → Bool), s.Inv → SpreadReady .codeA s →
    Written s .codeA (s.lenOf .codeA) →
    (s.lenOf .codeB : Int) = s.sf.toInt → Written s .codeB (s.lenOf .codeB) →
    s.lenOf .bits * s.lenOf .codeA * s.ns.toNat ≤ s.cap .tx → s.lenOf .bits ≤ s.cap .result →
    s.lenOf .intf = s.lenOf .bits * s.lenOf .codeA * s.ns.toNat →
    (∀ k, k < s.lenOf .intf →
      s.elem .intf k = some (signed
        (bipMul (β (k / s.ns.toNat / s.lenOf .codeB))
          (s.bitAt .codeB (k / s.ns.toNat % s.lenOf .codeB)))
        (s.sampleAt .splus (k % s.ns.toNat)))) →
    ∃ a b, exec (.spread .codeA) s = .next a ∧
      exec (.modulate false true false .internal) a = .next b ∧
      ∀ sel, ∃ c, exec (.demod sel .tx) b = .next c ∧ c.err = false ∧
        c.lenOf .result = s.lenOf .bits ∧
        ∀ i, i < s.lenOf .bits →
          let mine := match sel with
            | .codeA => s.bitAt .bits i
            | .codeB => β i
          ((∃ k, k < s.lenOf .codeA ∧
              bipMul (s.bitAt .codeA k) (s.bitAt .codeB k) = bipMul (s.bitAt .bits i) (β i)) →
            c.elem .result i = some (bitElem mine)) ∧
          ((∀ k, k < s.lenOf .codeA →
              bipMul (s.bitAt .codeA k) (s.bitAt .codeB k) ≠ bipMul (s.bitAt .bits i) (β i)) →
            c.elem .result i = some (bitElem false))

/-! ### The host's transactions (10_state.md, 20_memory.md, 70_reset_and_hazards.md) -/

/-- While BUSY = 1 the host may only read STATUS and ID; every other transaction is `BusyHazard` (R262). -/
def Obligations.BusyAllowsOnlyStatusAndId : Prop :=
  ∀ s : State, s.busy = true →
    busRead 0x000002 s = .next { s with env := { s.env with rdata := some s.statusWord } } ∧
    busRead 0x000000 s = .next { s with env := { s.env with rdata := some 0x5350554300070001 } } ∧
    (∀ a : BusAddr, a ≠ 0x000002 → a ≠ 0x000000 → busRead a s = .fault .busyHazard) ∧
    ∀ (a : BusAddr) (w : Word), busWrite a w s = .fault .busyHazard

/-- Reads have no side effect on any register or element, and a repeated read answers the same word (R77;
the word read is held in the environment, log entry 2). -/
def Obligations.ReadsHaveNoSideEffect : Prop :=
  ∀ (a : BusAddr) (s t : State), busRead a s = .next t →
    { t with env := s.env } = s ∧ t.env = { s.env with rdata := t.env.rdata } ∧
      busRead a t = .next t

/-- The register map: every register of R22 reads, at its index, as its rule says (R22, R24 to R39, R43), and
STATUS holds BUSY, DONE, ERR, CMP_OK and CFG_VALID in bits 0 to 4, its other bits 0 (R26). -/
def Obligations.RegisterMapReads : Prop :=
  (∀ (s : State) (j : Nat) (w : Word), s.busy = false → (j, w) ∈ registerReads s →
    busRead (busAddr 0 j) s = .next { s with env := { s.env with rdata := some w } }) ∧
  ∀ s : State,
    s.statusWord.getLsbD 0 = s.busy ∧ s.statusWord.getLsbD 1 = s.done ∧
    s.statusWord.getLsbD 2 = s.err ∧ s.statusWord.getLsbD 3 = s.cmpOk ∧
    s.statusWord.getLsbD 4 = s.cfgValid ∧ ∀ j, 5 ≤ j → s.statusWord.getLsbD j = false

/-- The accesses the bus answers with an error, for an idle block: a reserved index of region 0, a write of
a read-only register, a length above its capacity, an element at or above its region's capacity, and a
write of region 15 (R23, R34, R72). -/
def Obligations.BusErrors : Prop :=
  ∀ (s : State) (w : Word), s.busy = false →
    (∀ j, j < 2 ^ 20 → j ∉ (registerReads s).map Prod.fst →
      busRead (busAddr 0 j) s = .fault .hostBusError ∧
      busWrite (busAddr 0 j) w s = .fault .hostBusError) ∧
    (∀ j, j ∈ readOnlyIndices → busWrite (busAddr 0 j) w s = .fault .hostBusError) ∧
    (∀ r : Region, s.cap r < w.toNat →
      busWrite (busAddr 0 (0x020 + r.num)) w s = .fault .hostBusError) ∧
    (∀ (r : Region) (j : Nat), j < 2 ^ 20 → s.cap r ≤ j →
      busRead (busAddr r.num j) s = .fault .hostBusError ∧
      busWrite (busAddr r.num j) w s = .fault .hostBusError) ∧
    ∀ j, j < 2 ^ 20 → busWrite (busAddr 15 j) w s = .fault .hostBusError

/-- Buffer accesses of an idle block: a read of a written element of any region, SPLUS included and whoever
wrote it, answers it, and a read of an unwritten one is `UninitRead`; a write stores the bits the element's
kind keeps, changes no other element and no length, and is read back (R41, R42, R44, R72). -/
def Obligations.BufferWriteThenRead : Prop :=
  ∀ (s : State) (r : Region) (j : Nat), s.busy = false → j < 2 ^ 20 → j < s.cap r →
    (s.elem r j = none → busRead (busAddr r.num j) s = .fault .uninitRead) ∧
    (∀ v, s.elem r j = some v →
      busRead (busAddr r.num j) s = .next { s with env := { s.env with rdata := some v } }) ∧
    ∀ w : Word, r ≠ .splus →
      let kept := match r with
        | .bits | .codeA | .codeB | .chips | .result => 1
        | .text => 32
        | .dtext => 8
        | .tx | .ref | .intf | .gnoise | .rx | .desp | .corr | .splus => 64
      ∃ t, busWrite (busAddr r.num j) w s = .next t ∧ { t with mem := s.mem } = s ∧
        t.elem r j = some (BitVec.ofNat 64 (w.toNat % 2 ^ kept)) ∧
        (∀ q k, q ≠ r ∨ k ≠ j → t.elem q k = s.elem q k) ∧
        busRead (busAddr r.num j) t =
          .next { t with env := { t.env with
            rdata := some (BitVec.ofNat 64 (w.toNat % 2 ^ kept)) } }

/-- What a write of a register other than CMD and STATUS stores, for an idle block: a configuration register
takes the word and makes the configuration stale, even where the word is the one it held; SNR_DB and FIELD
take the word; SEED stores 1 in place of 0; CTRL and FRAME_KIND keep bit 0; LEN[r] takes any value up to its
capacity (R25, R29 to R32, R34, R36, R37, R263). -/
def Obligations.RegisterWrites : Prop :=
  ∀ (s : State) (w : Word), s.busy = false →
    busWrite 0x000008 w s = .next { s with fs := w, cfgValid := false } ∧
    busWrite 0x000009 w s = .next { s with fc := w, cfgValid := false } ∧
    busWrite 0x00000A w s = .next { s with sf := w, cfgValid := false } ∧
    busWrite 0x00000B w s = .next { s with tsym := w, cfgValid := false } ∧
    busWrite 0x00000D w s = .next { s with amp := w, cfgValid := false } ∧
    busWrite 0x00000E w s = .next { s with phase := w, cfgValid := false } ∧
    busWrite 0x00000C w s = .next { s with snrDb := w } ∧
    busWrite 0x00000F w s =
      .next { s with seed := if w.toNat % 65536 = 0 then 1 else BitVec.ofNat 16 w.toNat } ∧
    busWrite 0x000001 w s = .next { s with irqEn := w.getLsbD 0 } ∧
    busWrite 0x000040 w s = .next { s with frameKind := w.getLsbD 0 } ∧
    (∀ k : Fin 12,
      busWrite (busAddr 0 (0x041 + k.val)) w s = .next { s with field := s.field.set k.val w }) ∧
    ∀ r : Region, r ≠ .splus → w.toNat ≤ s.cap r →
      ∃ t, busWrite (busAddr 0 (0x020 + r.num)) w s = .next t ∧ { t with len := s.len } = s ∧
        t.lenOf r = w.toNat ∧ ∀ q, q ≠ r → t.lenOf q = s.lenOf q

/-- Issue: a write of CMD while BUSY = 0 latches the word, sets BUSY and clears DONE, ERR and ERRCODE
(R28, R236). -/
def Obligations.CmdWriteIssues : Prop :=
  ∀ (s : State) (w : Word), s.busy = false →
    busWrite 0x000004 w s =
      .next { s with cmd := w, busy := true, done := false, err := false, errcode := 0 }

/-- Return from an error: a write of STATUS clears DONE where bit 1 is 1 and ERR where bit 2 is 1, ignores
every other bit, and changes nothing else (R26, R239). -/
def Obligations.StatusWriteAcknowledges : Prop :=
  ∀ (s : State) (w : Word), s.busy = false →
    busWrite 0x000002 w s =
      .next { s with
        done := if w.getLsbD 1 then false else s.done
        err := if w.getLsbD 2 then false else s.err }

/-- The interrupt output is the level IRQ_EN and DONE: it follows IRQ_EN once a command completes, with or
without error, and is cleared by writing 1 to STATUS bit 1, by writing 0 to IRQ_EN, by issuing a command
and by reset (R238). -/
def Obligations.InterruptLevel : Prop :=
  (∀ s : State, s.irq = (s.irqEn && s.done)) ∧
  (∀ (i : Instr) (s t : State), exec i s = .next t → t.irq = s.irqEn) ∧
  (∀ (s t : State) (w : Word), busWrite 0x000002 w s = .next t → w.getLsbD 1 = true → t.irq = false) ∧
  (∀ (s t : State) (w : Word), busWrite 0x000001 w s = .next t → w.getLsbD 0 = false → t.irq = false) ∧
  (∀ (s t : State) (w : Word), busWrite 0x000004 w s = .next t → t.irq = false) ∧
  ∀ s t : State, perform .reset s = .next t → t.irq = false

/-- Reset, at any time and whether or not a command is pending: every register at its reset value, every
length 0, every element unwritten, the pending command abandoned (R48, R260). That the parameters and the
environment are kept is log entry 10. -/
def Obligations.ResetValues : Prop :=
  ∀ s : State,
    ∃ t, perform .reset s = .next t ∧
      t.irqEn = false ∧ t.statusWord = 0 ∧ t.errcode = 0 ∧ t.cmd = 0 ∧
      t.fs = 0 ∧ t.fc = 0 ∧ t.sf = 0 ∧ t.tsym = 0 ∧ t.snrDb = 0 ∧ t.amp = 0x3FF0000000000000 ∧
      t.phase = 0 ∧ t.seed = 0xACE1 ∧ t.tc = 0 ∧ t.ns = 0 ∧ t.nss = 0 ∧ t.lfsr = 0xACE1 ∧
      t.frameKind = false ∧ (∀ k : Fin 12, t.field[k] = 0 ∧ t.dfield[k] = 0) ∧
      t.cksum = 0 ∧ t.cksumSum = 0 ∧ t.mismatch = 0 ∧
      t.diagNormSig = 0 ∧ t.diagNormNoise = 0 ∧ t.diagScale = 0 ∧
      csrRead t .id = 0x5350554300070001 ∧ (∀ r, t.lenOf r = 0 ∧ t.cap r = s.cap r) ∧ (∀ r k, t.elem r k = none) ∧
      t.irq = false ∧ t.params = s.params ∧ t.env = s.env

/-! ### The invariant -/

/-- The invariant holds after reset, for the reference instance (its capacities are log entry 4, its placement
log entry 18). -/
def Obligations.InvariantAtReset : Prop :=
  State.reset.Inv

/-- Every step keeps the invariant: whatever the next input, and in every state that satisfies it. -/
def Obligations.StepKeepsTheInvariant : Prop :=
  ∀ s t : State, s.Inv → step s = .next t → t.Inv

/-- The canonical form is canonical: two memories that have it and read the same at every element are
equal (log entry 1). -/
def Obligations.CanonicalMemoriesAreEqual : Prop :=
  ∀ s t : State, s.mem.wf = true → t.mem.wf = true → (∀ r k, s.elem r k = t.elem r k) → s.mem = t.mem

/-! ### Binary64 (00_scope.md R12) -/

/-- Rounding is to nearest, ties to even: no finite value is nearer to `num / den` units than the one chosen,
and one equally near is chosen only where the chosen pattern is even (R12). -/
def Obligations.RoundingIsNearestEven : Prop :=
  ∀ num den m : Nat, 0 < den → roundMag num den < infBits → m < infBits →
    let near := fun p : Nat => ((num : Int) - unitsOf (withSign false p) * den).natAbs
    near (roundMag num den) ≤ near m ∧
      (near (roundMag num den) = near m → m ≠ roundMag num den → roundMag num den % 2 = 0)

/-- Integers up to 2^53 convert exactly, and `round_half_even` gives them back (R12). -/
def Obligations.IntegersConvertExactly : Prop :=
  ∀ n : Int, n.natAbs ≤ 2 ^ 53 →
    isFinite (i2f n) = true ∧ signedUnits (i2f n) = n * 2 ^ 1074 ∧ roundHalfEven (i2f n) = n

/-- Negation commutes with multiplication, and a value and its negation sum to `+0.0` (R12, R204, R205). -/
def Obligations.NegationIsExact : Prop :=
  (∀ a b : F64, isFinite a = true → isFinite b = true →
    fmul (fneg a) b = fneg (fmul a b) ∧ fmul a (fneg b) = fneg (fmul a b)) ∧
  ∀ a : F64, isFinite a = true → fadd a (fneg a) = posZero
end

