-- ==== Sys2Proof/Laws/State.lean ====
section
/-! SUPPORT. One lemma per field of State per update, so that no proof unfolds a record update. -/

namespace Sys2Proof.Machine

@[simp] theorem completeOk_irqEn (s : State) :
    (completeOk s).irqEn = s.irqEn := rfl
@[simp] theorem completeOk_busy (s : State) :
    (completeOk s).busy = false := rfl
@[simp] theorem completeOk_done (s : State) :
    (completeOk s).done = true := rfl
@[simp] theorem completeOk_err (s : State) :
    (completeOk s).err = false := rfl
@[simp] theorem completeOk_cmpOk (s : State) :
    (completeOk s).cmpOk = s.cmpOk := rfl
@[simp] theorem completeOk_cfgValid (s : State) :
    (completeOk s).cfgValid = s.cfgValid := rfl
@[simp] theorem completeOk_errcode (s : State) :
    (completeOk s).errcode = s.errcode := rfl
@[simp] theorem completeOk_cmd (s : State) :
    (completeOk s).cmd = s.cmd := rfl
@[simp] theorem completeOk_fs (s : State) :
    (completeOk s).fs = s.fs := rfl
@[simp] theorem completeOk_fc (s : State) :
    (completeOk s).fc = s.fc := rfl
@[simp] theorem completeOk_sf (s : State) :
    (completeOk s).sf = s.sf := rfl
@[simp] theorem completeOk_tsym (s : State) :
    (completeOk s).tsym = s.tsym := rfl
@[simp] theorem completeOk_snrDb (s : State) :
    (completeOk s).snrDb = s.snrDb := rfl
@[simp] theorem completeOk_amp (s : State) :
    (completeOk s).amp = s.amp := rfl
@[simp] theorem completeOk_phase (s : State) :
    (completeOk s).phase = s.phase := rfl
@[simp] theorem completeOk_seed (s : State) :
    (completeOk s).seed = s.seed := rfl
@[simp] theorem completeOk_tc (s : State) :
    (completeOk s).tc = s.tc := rfl
@[simp] theorem completeOk_ns (s : State) :
    (completeOk s).ns = s.ns := rfl
@[simp] theorem completeOk_nss (s : State) :
    (completeOk s).nss = s.nss := rfl
@[simp] theorem completeOk_lfsr (s : State) :
    (completeOk s).lfsr = s.lfsr := rfl
@[simp] theorem completeOk_len (s : State) :
    (completeOk s).len = s.len := rfl
@[simp] theorem completeOk_frameKind (s : State) :
    (completeOk s).frameKind = s.frameKind := rfl
@[simp] theorem completeOk_field (s : State) :
    (completeOk s).field = s.field := rfl
@[simp] theorem completeOk_dfield (s : State) :
    (completeOk s).dfield = s.dfield := rfl
@[simp] theorem completeOk_cksum (s : State) :
    (completeOk s).cksum = s.cksum := rfl
@[simp] theorem completeOk_cksumSum (s : State) :
    (completeOk s).cksumSum = s.cksumSum := rfl
@[simp] theorem completeOk_mismatch (s : State) :
    (completeOk s).mismatch = s.mismatch := rfl
@[simp] theorem completeOk_diagNormSig (s : State) :
    (completeOk s).diagNormSig = s.diagNormSig := rfl
@[simp] theorem completeOk_diagNormNoise (s : State) :
    (completeOk s).diagNormNoise = s.diagNormNoise := rfl
@[simp] theorem completeOk_diagScale (s : State) :
    (completeOk s).diagScale = s.diagScale := rfl
@[simp] theorem completeOk_mem (s : State) :
    (completeOk s).mem = s.mem := rfl
@[simp] theorem completeOk_params (s : State) :
    (completeOk s).params = s.params := rfl
@[simp] theorem completeOk_env (s : State) :
    (completeOk s).env = s.env := rfl

@[simp] theorem takeError_irqEn (e : CmdError) (s : State) :
    (takeError e s).irqEn = s.irqEn := rfl
@[simp] theorem takeError_busy (e : CmdError) (s : State) :
    (takeError e s).busy = false := rfl
@[simp] theorem takeError_done (e : CmdError) (s : State) :
    (takeError e s).done = true := rfl
@[simp] theorem takeError_err (e : CmdError) (s : State) :
    (takeError e s).err = true := rfl
@[simp] theorem takeError_cmpOk (e : CmdError) (s : State) :
    (takeError e s).cmpOk = s.cmpOk := rfl
@[simp] theorem takeError_cfgValid (e : CmdError) (s : State) :
    (takeError e s).cfgValid = s.cfgValid := rfl
@[simp] theorem takeError_errcode (e : CmdError) (s : State) :
    (takeError e s).errcode = e.word := rfl
@[simp] theorem takeError_cmd (e : CmdError) (s : State) :
    (takeError e s).cmd = s.cmd := rfl
@[simp] theorem takeError_fs (e : CmdError) (s : State) :
    (takeError e s).fs = s.fs := rfl
@[simp] theorem takeError_fc (e : CmdError) (s : State) :
    (takeError e s).fc = s.fc := rfl
@[simp] theorem takeError_sf (e : CmdError) (s : State) :
    (takeError e s).sf = s.sf := rfl
@[simp] theorem takeError_tsym (e : CmdError) (s : State) :
    (takeError e s).tsym = s.tsym := rfl
@[simp] theorem takeError_snrDb (e : CmdError) (s : State) :
    (takeError e s).snrDb = s.snrDb := rfl
@[simp] theorem takeError_amp (e : CmdError) (s : State) :
    (takeError e s).amp = s.amp := rfl
@[simp] theorem takeError_phase (e : CmdError) (s : State) :
    (takeError e s).phase = s.phase := rfl
@[simp] theorem takeError_seed (e : CmdError) (s : State) :
    (takeError e s).seed = s.seed := rfl
@[simp] theorem takeError_tc (e : CmdError) (s : State) :
    (takeError e s).tc = s.tc := rfl
@[simp] theorem takeError_ns (e : CmdError) (s : State) :
    (takeError e s).ns = s.ns := rfl
@[simp] theorem takeError_nss (e : CmdError) (s : State) :
    (takeError e s).nss = s.nss := rfl
@[simp] theorem takeError_lfsr (e : CmdError) (s : State) :
    (takeError e s).lfsr = s.lfsr := rfl
@[simp] theorem takeError_len (e : CmdError) (s : State) :
    (takeError e s).len = s.len := rfl
@[simp] theorem takeError_frameKind (e : CmdError) (s : State) :
    (takeError e s).frameKind = s.frameKind := rfl
@[simp] theorem takeError_field (e : CmdError) (s : State) :
    (takeError e s).field = s.field := rfl
@[simp] theorem takeError_dfield (e : CmdError) (s : State) :
    (takeError e s).dfield = s.dfield := rfl
@[simp] theorem takeError_cksum (e : CmdError) (s : State) :
    (takeError e s).cksum = s.cksum := rfl
@[simp] theorem takeError_cksumSum (e : CmdError) (s : State) :
    (takeError e s).cksumSum = s.cksumSum := rfl
@[simp] theorem takeError_mismatch (e : CmdError) (s : State) :
    (takeError e s).mismatch = s.mismatch := rfl
@[simp] theorem takeError_diagNormSig (e : CmdError) (s : State) :
    (takeError e s).diagNormSig = s.diagNormSig := rfl
@[simp] theorem takeError_diagNormNoise (e : CmdError) (s : State) :
    (takeError e s).diagNormNoise = s.diagNormNoise := rfl
@[simp] theorem takeError_diagScale (e : CmdError) (s : State) :
    (takeError e s).diagScale = s.diagScale := rfl
@[simp] theorem takeError_mem (e : CmdError) (s : State) :
    (takeError e s).mem = s.mem := rfl
@[simp] theorem takeError_params (e : CmdError) (s : State) :
    (takeError e s).params = s.params := rfl
@[simp] theorem takeError_env (e : CmdError) (s : State) :
    (takeError e s).env = s.env := rfl

@[simp] theorem issue_irqEn (w : Word) (s : State) :
    (issue w s).irqEn = s.irqEn := rfl
@[simp] theorem issue_busy (w : Word) (s : State) :
    (issue w s).busy = true := rfl
@[simp] theorem issue_done (w : Word) (s : State) :
    (issue w s).done = false := rfl
@[simp] theorem issue_err (w : Word) (s : State) :
    (issue w s).err = false := rfl
@[simp] theorem issue_cmpOk (w : Word) (s : State) :
    (issue w s).cmpOk = s.cmpOk := rfl
@[simp] theorem issue_cfgValid (w : Word) (s : State) :
    (issue w s).cfgValid = s.cfgValid := rfl
@[simp] theorem issue_errcode (w : Word) (s : State) :
    (issue w s).errcode = 0 := rfl
@[simp] theorem issue_cmd (w : Word) (s : State) :
    (issue w s).cmd = w := rfl
@[simp] theorem issue_fs (w : Word) (s : State) :
    (issue w s).fs = s.fs := rfl
@[simp] theorem issue_fc (w : Word) (s : State) :
    (issue w s).fc = s.fc := rfl
@[simp] theorem issue_sf (w : Word) (s : State) :
    (issue w s).sf = s.sf := rfl
@[simp] theorem issue_tsym (w : Word) (s : State) :
    (issue w s).tsym = s.tsym := rfl
@[simp] theorem issue_snrDb (w : Word) (s : State) :
    (issue w s).snrDb = s.snrDb := rfl
@[simp] theorem issue_amp (w : Word) (s : State) :
    (issue w s).amp = s.amp := rfl
@[simp] theorem issue_phase (w : Word) (s : State) :
    (issue w s).phase = s.phase := rfl
@[simp] theorem issue_seed (w : Word) (s : State) :
    (issue w s).seed = s.seed := rfl
@[simp] theorem issue_tc (w : Word) (s : State) :
    (issue w s).tc = s.tc := rfl
@[simp] theorem issue_ns (w : Word) (s : State) :
    (issue w s).ns = s.ns := rfl
@[simp] theorem issue_nss (w : Word) (s : State) :
    (issue w s).nss = s.nss := rfl
@[simp] theorem issue_lfsr (w : Word) (s : State) :
    (issue w s).lfsr = s.lfsr := rfl
@[simp] theorem issue_len (w : Word) (s : State) :
    (issue w s).len = s.len := rfl
@[simp] theorem issue_frameKind (w : Word) (s : State) :
    (issue w s).frameKind = s.frameKind := rfl
@[simp] theorem issue_field (w : Word) (s : State) :
    (issue w s).field = s.field := rfl
@[simp] theorem issue_dfield (w : Word) (s : State) :
    (issue w s).dfield = s.dfield := rfl
@[simp] theorem issue_cksum (w : Word) (s : State) :
    (issue w s).cksum = s.cksum := rfl
@[simp] theorem issue_cksumSum (w : Word) (s : State) :
    (issue w s).cksumSum = s.cksumSum := rfl
@[simp] theorem issue_mismatch (w : Word) (s : State) :
    (issue w s).mismatch = s.mismatch := rfl
@[simp] theorem issue_diagNormSig (w : Word) (s : State) :
    (issue w s).diagNormSig = s.diagNormSig := rfl
@[simp] theorem issue_diagNormNoise (w : Word) (s : State) :
    (issue w s).diagNormNoise = s.diagNormNoise := rfl
@[simp] theorem issue_diagScale (w : Word) (s : State) :
    (issue w s).diagScale = s.diagScale := rfl
@[simp] theorem issue_mem (w : Word) (s : State) :
    (issue w s).mem = s.mem := rfl
@[simp] theorem issue_params (w : Word) (s : State) :
    (issue w s).params = s.params := rfl
@[simp] theorem issue_env (w : Word) (s : State) :
    (issue w s).env = s.env := rfl

@[simp] theorem ackStatus_irqEn (w : Word) (s : State) :
    (ackStatus w s).irqEn = s.irqEn := rfl
@[simp] theorem ackStatus_busy (w : Word) (s : State) :
    (ackStatus w s).busy = s.busy := rfl
@[simp] theorem ackStatus_done (w : Word) (s : State) :
    (ackStatus w s).done = (s.done && !w.getLsbD 1) := rfl
@[simp] theorem ackStatus_err (w : Word) (s : State) :
    (ackStatus w s).err = (s.err && !w.getLsbD 2) := rfl
@[simp] theorem ackStatus_cmpOk (w : Word) (s : State) :
    (ackStatus w s).cmpOk = s.cmpOk := rfl
@[simp] theorem ackStatus_cfgValid (w : Word) (s : State) :
    (ackStatus w s).cfgValid = s.cfgValid := rfl
@[simp] theorem ackStatus_errcode (w : Word) (s : State) :
    (ackStatus w s).errcode = s.errcode := rfl
@[simp] theorem ackStatus_cmd (w : Word) (s : State) :
    (ackStatus w s).cmd = s.cmd := rfl
@[simp] theorem ackStatus_fs (w : Word) (s : State) :
    (ackStatus w s).fs = s.fs := rfl
@[simp] theorem ackStatus_fc (w : Word) (s : State) :
    (ackStatus w s).fc = s.fc := rfl
@[simp] theorem ackStatus_sf (w : Word) (s : State) :
    (ackStatus w s).sf = s.sf := rfl
@[simp] theorem ackStatus_tsym (w : Word) (s : State) :
    (ackStatus w s).tsym = s.tsym := rfl
@[simp] theorem ackStatus_snrDb (w : Word) (s : State) :
    (ackStatus w s).snrDb = s.snrDb := rfl
@[simp] theorem ackStatus_amp (w : Word) (s : State) :
    (ackStatus w s).amp = s.amp := rfl
@[simp] theorem ackStatus_phase (w : Word) (s : State) :
    (ackStatus w s).phase = s.phase := rfl
@[simp] theorem ackStatus_seed (w : Word) (s : State) :
    (ackStatus w s).seed = s.seed := rfl
@[simp] theorem ackStatus_tc (w : Word) (s : State) :
    (ackStatus w s).tc = s.tc := rfl
@[simp] theorem ackStatus_ns (w : Word) (s : State) :
    (ackStatus w s).ns = s.ns := rfl
@[simp] theorem ackStatus_nss (w : Word) (s : State) :
    (ackStatus w s).nss = s.nss := rfl
@[simp] theorem ackStatus_lfsr (w : Word) (s : State) :
    (ackStatus w s).lfsr = s.lfsr := rfl
@[simp] theorem ackStatus_len (w : Word) (s : State) :
    (ackStatus w s).len = s.len := rfl
@[simp] theorem ackStatus_frameKind (w : Word) (s : State) :
    (ackStatus w s).frameKind = s.frameKind := rfl
@[simp] theorem ackStatus_field (w : Word) (s : State) :
    (ackStatus w s).field = s.field := rfl
@[simp] theorem ackStatus_dfield (w : Word) (s : State) :
    (ackStatus w s).dfield = s.dfield := rfl
@[simp] theorem ackStatus_cksum (w : Word) (s : State) :
    (ackStatus w s).cksum = s.cksum := rfl
@[simp] theorem ackStatus_cksumSum (w : Word) (s : State) :
    (ackStatus w s).cksumSum = s.cksumSum := rfl
@[simp] theorem ackStatus_mismatch (w : Word) (s : State) :
    (ackStatus w s).mismatch = s.mismatch := rfl
@[simp] theorem ackStatus_diagNormSig (w : Word) (s : State) :
    (ackStatus w s).diagNormSig = s.diagNormSig := rfl
@[simp] theorem ackStatus_diagNormNoise (w : Word) (s : State) :
    (ackStatus w s).diagNormNoise = s.diagNormNoise := rfl
@[simp] theorem ackStatus_diagScale (w : Word) (s : State) :
    (ackStatus w s).diagScale = s.diagScale := rfl
@[simp] theorem ackStatus_mem (w : Word) (s : State) :
    (ackStatus w s).mem = s.mem := rfl
@[simp] theorem ackStatus_params (w : Word) (s : State) :
    (ackStatus w s).params = s.params := rfl
@[simp] theorem ackStatus_env (w : Word) (s : State) :
    (ackStatus w s).env = s.env := rfl

@[simp] theorem putElem_irqEn (s : State) (r : Region) (i : Nat) (v : Word) :
    (s.putElem r i v).irqEn = s.irqEn := rfl
@[simp] theorem putElem_busy (s : State) (r : Region) (i : Nat) (v : Word) :
    (s.putElem r i v).busy = s.busy := rfl
@[simp] theorem putElem_done (s : State) (r : Region) (i : Nat) (v : Word) :
    (s.putElem r i v).done = s.done := rfl
@[simp] theorem putElem_err (s : State) (r : Region) (i : Nat) (v : Word) :
    (s.putElem r i v).err = s.err := rfl
@[simp] theorem putElem_cmpOk (s : State) (r : Region) (i : Nat) (v : Word) :
    (s.putElem r i v).cmpOk = s.cmpOk := rfl
@[simp] theorem putElem_cfgValid (s : State) (r : Region) (i : Nat) (v : Word) :
    (s.putElem r i v).cfgValid = s.cfgValid := rfl
@[simp] theorem putElem_errcode (s : State) (r : Region) (i : Nat) (v : Word) :
    (s.putElem r i v).errcode = s.errcode := rfl
@[simp] theorem putElem_cmd (s : State) (r : Region) (i : Nat) (v : Word) :
    (s.putElem r i v).cmd = s.cmd := rfl
@[simp] theorem putElem_fs (s : State) (r : Region) (i : Nat) (v : Word) :
    (s.putElem r i v).fs = s.fs := rfl
@[simp] theorem putElem_fc (s : State) (r : Region) (i : Nat) (v : Word) :
    (s.putElem r i v).fc = s.fc := rfl
@[simp] theorem putElem_sf (s : State) (r : Region) (i : Nat) (v : Word) :
    (s.putElem r i v).sf = s.sf := rfl
@[simp] theorem putElem_tsym (s : State) (r : Region) (i : Nat) (v : Word) :
    (s.putElem r i v).tsym = s.tsym := rfl
@[simp] theorem putElem_snrDb (s : State) (r : Region) (i : Nat) (v : Word) :
    (s.putElem r i v).snrDb = s.snrDb := rfl
@[simp] theorem putElem_amp (s : State) (r : Region) (i : Nat) (v : Word) :
    (s.putElem r i v).amp = s.amp := rfl
@[simp] theorem putElem_phase (s : State) (r : Region) (i : Nat) (v : Word) :
    (s.putElem r i v).phase = s.phase := rfl
@[simp] theorem putElem_seed (s : State) (r : Region) (i : Nat) (v : Word) :
    (s.putElem r i v).seed = s.seed := rfl
@[simp] theorem putElem_tc (s : State) (r : Region) (i : Nat) (v : Word) :
    (s.putElem r i v).tc = s.tc := rfl
@[simp] theorem putElem_ns (s : State) (r : Region) (i : Nat) (v : Word) :
    (s.putElem r i v).ns = s.ns := rfl
@[simp] theorem putElem_nss (s : State) (r : Region) (i : Nat) (v : Word) :
    (s.putElem r i v).nss = s.nss := rfl
@[simp] theorem putElem_lfsr (s : State) (r : Region) (i : Nat) (v : Word) :
    (s.putElem r i v).lfsr = s.lfsr := rfl
@[simp] theorem putElem_len (s : State) (r : Region) (i : Nat) (v : Word) :
    (s.putElem r i v).len = s.len := rfl
@[simp] theorem putElem_frameKind (s : State) (r : Region) (i : Nat) (v : Word) :
    (s.putElem r i v).frameKind = s.frameKind := rfl
@[simp] theorem putElem_field (s : State) (r : Region) (i : Nat) (v : Word) :
    (s.putElem r i v).field = s.field := rfl
@[simp] theorem putElem_dfield (s : State) (r : Region) (i : Nat) (v : Word) :
    (s.putElem r i v).dfield = s.dfield := rfl
@[simp] theorem putElem_cksum (s : State) (r : Region) (i : Nat) (v : Word) :
    (s.putElem r i v).cksum = s.cksum := rfl
@[simp] theorem putElem_cksumSum (s : State) (r : Region) (i : Nat) (v : Word) :
    (s.putElem r i v).cksumSum = s.cksumSum := rfl
@[simp] theorem putElem_mismatch (s : State) (r : Region) (i : Nat) (v : Word) :
    (s.putElem r i v).mismatch = s.mismatch := rfl
@[simp] theorem putElem_diagNormSig (s : State) (r : Region) (i : Nat) (v : Word) :
    (s.putElem r i v).diagNormSig = s.diagNormSig := rfl
@[simp] theorem putElem_diagNormNoise (s : State) (r : Region) (i : Nat) (v : Word) :
    (s.putElem r i v).diagNormNoise = s.diagNormNoise := rfl
@[simp] theorem putElem_diagScale (s : State) (r : Region) (i : Nat) (v : Word) :
    (s.putElem r i v).diagScale = s.diagScale := rfl
@[simp] theorem putElem_mem (s : State) (r : Region) (i : Nat) (v : Word) :
    (s.putElem r i v).mem = s.mem.setBuffer r (bufWrite (s.mem.buffer r) i v) := rfl
@[simp] theorem putElem_params (s : State) (r : Region) (i : Nat) (v : Word) :
    (s.putElem r i v).params = s.params := rfl
@[simp] theorem putElem_env (s : State) (r : Region) (i : Nat) (v : Word) :
    (s.putElem r i v).env = s.env := rfl

@[simp] theorem putLen_irqEn (s : State) (r : Region) (n : Nat) :
    (s.putLen r n).irqEn = s.irqEn := rfl
@[simp] theorem putLen_busy (s : State) (r : Region) (n : Nat) :
    (s.putLen r n).busy = s.busy := rfl
@[simp] theorem putLen_done (s : State) (r : Region) (n : Nat) :
    (s.putLen r n).done = s.done := rfl
@[simp] theorem putLen_err (s : State) (r : Region) (n : Nat) :
    (s.putLen r n).err = s.err := rfl
@[simp] theorem putLen_cmpOk (s : State) (r : Region) (n : Nat) :
    (s.putLen r n).cmpOk = s.cmpOk := rfl
@[simp] theorem putLen_cfgValid (s : State) (r : Region) (n : Nat) :
    (s.putLen r n).cfgValid = s.cfgValid := rfl
@[simp] theorem putLen_errcode (s : State) (r : Region) (n : Nat) :
    (s.putLen r n).errcode = s.errcode := rfl
@[simp] theorem putLen_cmd (s : State) (r : Region) (n : Nat) :
    (s.putLen r n).cmd = s.cmd := rfl
@[simp] theorem putLen_fs (s : State) (r : Region) (n : Nat) :
    (s.putLen r n).fs = s.fs := rfl
@[simp] theorem putLen_fc (s : State) (r : Region) (n : Nat) :
    (s.putLen r n).fc = s.fc := rfl
@[simp] theorem putLen_sf (s : State) (r : Region) (n : Nat) :
    (s.putLen r n).sf = s.sf := rfl
@[simp] theorem putLen_tsym (s : State) (r : Region) (n : Nat) :
    (s.putLen r n).tsym = s.tsym := rfl
@[simp] theorem putLen_snrDb (s : State) (r : Region) (n : Nat) :
    (s.putLen r n).snrDb = s.snrDb := rfl
@[simp] theorem putLen_amp (s : State) (r : Region) (n : Nat) :
    (s.putLen r n).amp = s.amp := rfl
@[simp] theorem putLen_phase (s : State) (r : Region) (n : Nat) :
    (s.putLen r n).phase = s.phase := rfl
@[simp] theorem putLen_seed (s : State) (r : Region) (n : Nat) :
    (s.putLen r n).seed = s.seed := rfl
@[simp] theorem putLen_tc (s : State) (r : Region) (n : Nat) :
    (s.putLen r n).tc = s.tc := rfl
@[simp] theorem putLen_ns (s : State) (r : Region) (n : Nat) :
    (s.putLen r n).ns = s.ns := rfl
@[simp] theorem putLen_nss (s : State) (r : Region) (n : Nat) :
    (s.putLen r n).nss = s.nss := rfl
@[simp] theorem putLen_lfsr (s : State) (r : Region) (n : Nat) :
    (s.putLen r n).lfsr = s.lfsr := rfl
@[simp] theorem putLen_len (s : State) (r : Region) (n : Nat) :
    (s.putLen r n).len = s.len.set r.idx n := rfl
@[simp] theorem putLen_frameKind (s : State) (r : Region) (n : Nat) :
    (s.putLen r n).frameKind = s.frameKind := rfl
@[simp] theorem putLen_field (s : State) (r : Region) (n : Nat) :
    (s.putLen r n).field = s.field := rfl
@[simp] theorem putLen_dfield (s : State) (r : Region) (n : Nat) :
    (s.putLen r n).dfield = s.dfield := rfl
@[simp] theorem putLen_cksum (s : State) (r : Region) (n : Nat) :
    (s.putLen r n).cksum = s.cksum := rfl
@[simp] theorem putLen_cksumSum (s : State) (r : Region) (n : Nat) :
    (s.putLen r n).cksumSum = s.cksumSum := rfl
@[simp] theorem putLen_mismatch (s : State) (r : Region) (n : Nat) :
    (s.putLen r n).mismatch = s.mismatch := rfl
@[simp] theorem putLen_diagNormSig (s : State) (r : Region) (n : Nat) :
    (s.putLen r n).diagNormSig = s.diagNormSig := rfl
@[simp] theorem putLen_diagNormNoise (s : State) (r : Region) (n : Nat) :
    (s.putLen r n).diagNormNoise = s.diagNormNoise := rfl
@[simp] theorem putLen_diagScale (s : State) (r : Region) (n : Nat) :
    (s.putLen r n).diagScale = s.diagScale := rfl
@[simp] theorem putLen_mem (s : State) (r : Region) (n : Nat) :
    (s.putLen r n).mem = s.mem := rfl
@[simp] theorem putLen_params (s : State) (r : Region) (n : Nat) :
    (s.putLen r n).params = s.params := rfl
@[simp] theorem putLen_env (s : State) (r : Region) (n : Nat) :
    (s.putLen r n).env = s.env := rfl

@[simp] theorem putSeq_irqEn (s : State) (r : Region) (ws : List Word) :
    (s.putSeq r ws).irqEn = s.irqEn := rfl
@[simp] theorem putSeq_busy (s : State) (r : Region) (ws : List Word) :
    (s.putSeq r ws).busy = s.busy := rfl
@[simp] theorem putSeq_done (s : State) (r : Region) (ws : List Word) :
    (s.putSeq r ws).done = s.done := rfl
@[simp] theorem putSeq_err (s : State) (r : Region) (ws : List Word) :
    (s.putSeq r ws).err = s.err := rfl
@[simp] theorem putSeq_cmpOk (s : State) (r : Region) (ws : List Word) :
    (s.putSeq r ws).cmpOk = s.cmpOk := rfl
@[simp] theorem putSeq_cfgValid (s : State) (r : Region) (ws : List Word) :
    (s.putSeq r ws).cfgValid = s.cfgValid := rfl
@[simp] theorem putSeq_errcode (s : State) (r : Region) (ws : List Word) :
    (s.putSeq r ws).errcode = s.errcode := rfl
@[simp] theorem putSeq_cmd (s : State) (r : Region) (ws : List Word) :
    (s.putSeq r ws).cmd = s.cmd := rfl
@[simp] theorem putSeq_fs (s : State) (r : Region) (ws : List Word) :
    (s.putSeq r ws).fs = s.fs := rfl
@[simp] theorem putSeq_fc (s : State) (r : Region) (ws : List Word) :
    (s.putSeq r ws).fc = s.fc := rfl
@[simp] theorem putSeq_sf (s : State) (r : Region) (ws : List Word) :
    (s.putSeq r ws).sf = s.sf := rfl
@[simp] theorem putSeq_tsym (s : State) (r : Region) (ws : List Word) :
    (s.putSeq r ws).tsym = s.tsym := rfl
@[simp] theorem putSeq_snrDb (s : State) (r : Region) (ws : List Word) :
    (s.putSeq r ws).snrDb = s.snrDb := rfl
@[simp] theorem putSeq_amp (s : State) (r : Region) (ws : List Word) :
    (s.putSeq r ws).amp = s.amp := rfl
@[simp] theorem putSeq_phase (s : State) (r : Region) (ws : List Word) :
    (s.putSeq r ws).phase = s.phase := rfl
@[simp] theorem putSeq_seed (s : State) (r : Region) (ws : List Word) :
    (s.putSeq r ws).seed = s.seed := rfl
@[simp] theorem putSeq_tc (s : State) (r : Region) (ws : List Word) :
    (s.putSeq r ws).tc = s.tc := rfl
@[simp] theorem putSeq_ns (s : State) (r : Region) (ws : List Word) :
    (s.putSeq r ws).ns = s.ns := rfl
@[simp] theorem putSeq_nss (s : State) (r : Region) (ws : List Word) :
    (s.putSeq r ws).nss = s.nss := rfl
@[simp] theorem putSeq_lfsr (s : State) (r : Region) (ws : List Word) :
    (s.putSeq r ws).lfsr = s.lfsr := rfl
@[simp] theorem putSeq_len (s : State) (r : Region) (ws : List Word) :
    (s.putSeq r ws).len = s.len.set r.idx ws.length := rfl
@[simp] theorem putSeq_frameKind (s : State) (r : Region) (ws : List Word) :
    (s.putSeq r ws).frameKind = s.frameKind := rfl
@[simp] theorem putSeq_field (s : State) (r : Region) (ws : List Word) :
    (s.putSeq r ws).field = s.field := rfl
@[simp] theorem putSeq_dfield (s : State) (r : Region) (ws : List Word) :
    (s.putSeq r ws).dfield = s.dfield := rfl
@[simp] theorem putSeq_cksum (s : State) (r : Region) (ws : List Word) :
    (s.putSeq r ws).cksum = s.cksum := rfl
@[simp] theorem putSeq_cksumSum (s : State) (r : Region) (ws : List Word) :
    (s.putSeq r ws).cksumSum = s.cksumSum := rfl
@[simp] theorem putSeq_mismatch (s : State) (r : Region) (ws : List Word) :
    (s.putSeq r ws).mismatch = s.mismatch := rfl
@[simp] theorem putSeq_diagNormSig (s : State) (r : Region) (ws : List Word) :
    (s.putSeq r ws).diagNormSig = s.diagNormSig := rfl
@[simp] theorem putSeq_diagNormNoise (s : State) (r : Region) (ws : List Word) :
    (s.putSeq r ws).diagNormNoise = s.diagNormNoise := rfl
@[simp] theorem putSeq_diagScale (s : State) (r : Region) (ws : List Word) :
    (s.putSeq r ws).diagScale = s.diagScale := rfl
@[simp] theorem putSeq_mem (s : State) (r : Region) (ws : List Word) :
    (s.putSeq r ws).mem = s.mem.setBuffer r (bufOverwrite (s.mem.buffer r) ws) := rfl
@[simp] theorem putSeq_params (s : State) (r : Region) (ws : List Word) :
    (s.putSeq r ws).params = s.params := rfl
@[simp] theorem putSeq_env (s : State) (r : Region) (ws : List Word) :
    (s.putSeq r ws).env = s.env := rfl

@[simp] theorem popInput_irqEn (s : State) :
    s.popInput.irqEn = s.irqEn := rfl
@[simp] theorem popInput_busy (s : State) :
    s.popInput.busy = s.busy := rfl
@[simp] theorem popInput_done (s : State) :
    s.popInput.done = s.done := rfl
@[simp] theorem popInput_err (s : State) :
    s.popInput.err = s.err := rfl
@[simp] theorem popInput_cmpOk (s : State) :
    s.popInput.cmpOk = s.cmpOk := rfl
@[simp] theorem popInput_cfgValid (s : State) :
    s.popInput.cfgValid = s.cfgValid := rfl
@[simp] theorem popInput_errcode (s : State) :
    s.popInput.errcode = s.errcode := rfl
@[simp] theorem popInput_cmd (s : State) :
    s.popInput.cmd = s.cmd := rfl
@[simp] theorem popInput_fs (s : State) :
    s.popInput.fs = s.fs := rfl
@[simp] theorem popInput_fc (s : State) :
    s.popInput.fc = s.fc := rfl
@[simp] theorem popInput_sf (s : State) :
    s.popInput.sf = s.sf := rfl
@[simp] theorem popInput_tsym (s : State) :
    s.popInput.tsym = s.tsym := rfl
@[simp] theorem popInput_snrDb (s : State) :
    s.popInput.snrDb = s.snrDb := rfl
@[simp] theorem popInput_amp (s : State) :
    s.popInput.amp = s.amp := rfl
@[simp] theorem popInput_phase (s : State) :
    s.popInput.phase = s.phase := rfl
@[simp] theorem popInput_seed (s : State) :
    s.popInput.seed = s.seed := rfl
@[simp] theorem popInput_tc (s : State) :
    s.popInput.tc = s.tc := rfl
@[simp] theorem popInput_ns (s : State) :
    s.popInput.ns = s.ns := rfl
@[simp] theorem popInput_nss (s : State) :
    s.popInput.nss = s.nss := rfl
@[simp] theorem popInput_lfsr (s : State) :
    s.popInput.lfsr = s.lfsr := rfl
@[simp] theorem popInput_len (s : State) :
    s.popInput.len = s.len := rfl
@[simp] theorem popInput_frameKind (s : State) :
    s.popInput.frameKind = s.frameKind := rfl
@[simp] theorem popInput_field (s : State) :
    s.popInput.field = s.field := rfl
@[simp] theorem popInput_dfield (s : State) :
    s.popInput.dfield = s.dfield := rfl
@[simp] theorem popInput_cksum (s : State) :
    s.popInput.cksum = s.cksum := rfl
@[simp] theorem popInput_cksumSum (s : State) :
    s.popInput.cksumSum = s.cksumSum := rfl
@[simp] theorem popInput_mismatch (s : State) :
    s.popInput.mismatch = s.mismatch := rfl
@[simp] theorem popInput_diagNormSig (s : State) :
    s.popInput.diagNormSig = s.diagNormSig := rfl
@[simp] theorem popInput_diagNormNoise (s : State) :
    s.popInput.diagNormNoise = s.diagNormNoise := rfl
@[simp] theorem popInput_diagScale (s : State) :
    s.popInput.diagScale = s.diagScale := rfl
@[simp] theorem popInput_mem (s : State) :
    s.popInput.mem = s.mem := rfl
@[simp] theorem popInput_params (s : State) :
    s.popInput.params = s.params := rfl
@[simp] theorem popInput_env (s : State) :
    s.popInput.env = { s.env with agenda := s.env.agenda.tail } := rfl

@[simp] theorem pushInput_irqEn (ev : Event) (s : State) :
    (s.pushInput ev).irqEn = s.irqEn := rfl
@[simp] theorem pushInput_busy (ev : Event) (s : State) :
    (s.pushInput ev).busy = s.busy := rfl
@[simp] theorem pushInput_done (ev : Event) (s : State) :
    (s.pushInput ev).done = s.done := rfl
@[simp] theorem pushInput_err (ev : Event) (s : State) :
    (s.pushInput ev).err = s.err := rfl
@[simp] theorem pushInput_cmpOk (ev : Event) (s : State) :
    (s.pushInput ev).cmpOk = s.cmpOk := rfl
@[simp] theorem pushInput_cfgValid (ev : Event) (s : State) :
    (s.pushInput ev).cfgValid = s.cfgValid := rfl
@[simp] theorem pushInput_errcode (ev : Event) (s : State) :
    (s.pushInput ev).errcode = s.errcode := rfl
@[simp] theorem pushInput_cmd (ev : Event) (s : State) :
    (s.pushInput ev).cmd = s.cmd := rfl
@[simp] theorem pushInput_fs (ev : Event) (s : State) :
    (s.pushInput ev).fs = s.fs := rfl
@[simp] theorem pushInput_fc (ev : Event) (s : State) :
    (s.pushInput ev).fc = s.fc := rfl
@[simp] theorem pushInput_sf (ev : Event) (s : State) :
    (s.pushInput ev).sf = s.sf := rfl
@[simp] theorem pushInput_tsym (ev : Event) (s : State) :
    (s.pushInput ev).tsym = s.tsym := rfl
@[simp] theorem pushInput_snrDb (ev : Event) (s : State) :
    (s.pushInput ev).snrDb = s.snrDb := rfl
@[simp] theorem pushInput_amp (ev : Event) (s : State) :
    (s.pushInput ev).amp = s.amp := rfl
@[simp] theorem pushInput_phase (ev : Event) (s : State) :
    (s.pushInput ev).phase = s.phase := rfl
@[simp] theorem pushInput_seed (ev : Event) (s : State) :
    (s.pushInput ev).seed = s.seed := rfl
@[simp] theorem pushInput_tc (ev : Event) (s : State) :
    (s.pushInput ev).tc = s.tc := rfl
@[simp] theorem pushInput_ns (ev : Event) (s : State) :
    (s.pushInput ev).ns = s.ns := rfl
@[simp] theorem pushInput_nss (ev : Event) (s : State) :
    (s.pushInput ev).nss = s.nss := rfl
@[simp] theorem pushInput_lfsr (ev : Event) (s : State) :
    (s.pushInput ev).lfsr = s.lfsr := rfl
@[simp] theorem pushInput_len (ev : Event) (s : State) :
    (s.pushInput ev).len = s.len := rfl
@[simp] theorem pushInput_frameKind (ev : Event) (s : State) :
    (s.pushInput ev).frameKind = s.frameKind := rfl
@[simp] theorem pushInput_field (ev : Event) (s : State) :
    (s.pushInput ev).field = s.field := rfl
@[simp] theorem pushInput_dfield (ev : Event) (s : State) :
    (s.pushInput ev).dfield = s.dfield := rfl
@[simp] theorem pushInput_cksum (ev : Event) (s : State) :
    (s.pushInput ev).cksum = s.cksum := rfl
@[simp] theorem pushInput_cksumSum (ev : Event) (s : State) :
    (s.pushInput ev).cksumSum = s.cksumSum := rfl
@[simp] theorem pushInput_mismatch (ev : Event) (s : State) :
    (s.pushInput ev).mismatch = s.mismatch := rfl
@[simp] theorem pushInput_diagNormSig (ev : Event) (s : State) :
    (s.pushInput ev).diagNormSig = s.diagNormSig := rfl
@[simp] theorem pushInput_diagNormNoise (ev : Event) (s : State) :
    (s.pushInput ev).diagNormNoise = s.diagNormNoise := rfl
@[simp] theorem pushInput_diagScale (ev : Event) (s : State) :
    (s.pushInput ev).diagScale = s.diagScale := rfl
@[simp] theorem pushInput_mem (ev : Event) (s : State) :
    (s.pushInput ev).mem = s.mem := rfl
@[simp] theorem pushInput_params (ev : Event) (s : State) :
    (s.pushInput ev).params = s.params := rfl
@[simp] theorem pushInput_env (ev : Event) (s : State) :
    (s.pushInput ev).env = { s.env with agenda := ev :: s.env.agenda } := rfl

@[simp] theorem drawEntropy_irqEn (n : Nat) (s : State) :
    (drawEntropy n s).2.irqEn = s.irqEn := rfl
@[simp] theorem drawEntropy_busy (n : Nat) (s : State) :
    (drawEntropy n s).2.busy = s.busy := rfl
@[simp] theorem drawEntropy_done (n : Nat) (s : State) :
    (drawEntropy n s).2.done = s.done := rfl
@[simp] theorem drawEntropy_err (n : Nat) (s : State) :
    (drawEntropy n s).2.err = s.err := rfl
@[simp] theorem drawEntropy_cmpOk (n : Nat) (s : State) :
    (drawEntropy n s).2.cmpOk = s.cmpOk := rfl
@[simp] theorem drawEntropy_cfgValid (n : Nat) (s : State) :
    (drawEntropy n s).2.cfgValid = s.cfgValid := rfl
@[simp] theorem drawEntropy_errcode (n : Nat) (s : State) :
    (drawEntropy n s).2.errcode = s.errcode := rfl
@[simp] theorem drawEntropy_cmd (n : Nat) (s : State) :
    (drawEntropy n s).2.cmd = s.cmd := rfl
@[simp] theorem drawEntropy_fs (n : Nat) (s : State) :
    (drawEntropy n s).2.fs = s.fs := rfl
@[simp] theorem drawEntropy_fc (n : Nat) (s : State) :
    (drawEntropy n s).2.fc = s.fc := rfl
@[simp] theorem drawEntropy_sf (n : Nat) (s : State) :
    (drawEntropy n s).2.sf = s.sf := rfl
@[simp] theorem drawEntropy_tsym (n : Nat) (s : State) :
    (drawEntropy n s).2.tsym = s.tsym := rfl
@[simp] theorem drawEntropy_snrDb (n : Nat) (s : State) :
    (drawEntropy n s).2.snrDb = s.snrDb := rfl
@[simp] theorem drawEntropy_amp (n : Nat) (s : State) :
    (drawEntropy n s).2.amp = s.amp := rfl
@[simp] theorem drawEntropy_phase (n : Nat) (s : State) :
    (drawEntropy n s).2.phase = s.phase := rfl
@[simp] theorem drawEntropy_seed (n : Nat) (s : State) :
    (drawEntropy n s).2.seed = s.seed := rfl
@[simp] theorem drawEntropy_tc (n : Nat) (s : State) :
    (drawEntropy n s).2.tc = s.tc := rfl
@[simp] theorem drawEntropy_ns (n : Nat) (s : State) :
    (drawEntropy n s).2.ns = s.ns := rfl
@[simp] theorem drawEntropy_nss (n : Nat) (s : State) :
    (drawEntropy n s).2.nss = s.nss := rfl
@[simp] theorem drawEntropy_lfsr (n : Nat) (s : State) :
    (drawEntropy n s).2.lfsr = s.lfsr := rfl
@[simp] theorem drawEntropy_len (n : Nat) (s : State) :
    (drawEntropy n s).2.len = s.len := rfl
@[simp] theorem drawEntropy_frameKind (n : Nat) (s : State) :
    (drawEntropy n s).2.frameKind = s.frameKind := rfl
@[simp] theorem drawEntropy_field (n : Nat) (s : State) :
    (drawEntropy n s).2.field = s.field := rfl
@[simp] theorem drawEntropy_dfield (n : Nat) (s : State) :
    (drawEntropy n s).2.dfield = s.dfield := rfl
@[simp] theorem drawEntropy_cksum (n : Nat) (s : State) :
    (drawEntropy n s).2.cksum = s.cksum := rfl
@[simp] theorem drawEntropy_cksumSum (n : Nat) (s : State) :
    (drawEntropy n s).2.cksumSum = s.cksumSum := rfl
@[simp] theorem drawEntropy_mismatch (n : Nat) (s : State) :
    (drawEntropy n s).2.mismatch = s.mismatch := rfl
@[simp] theorem drawEntropy_diagNormSig (n : Nat) (s : State) :
    (drawEntropy n s).2.diagNormSig = s.diagNormSig := rfl
@[simp] theorem drawEntropy_diagNormNoise (n : Nat) (s : State) :
    (drawEntropy n s).2.diagNormNoise = s.diagNormNoise := rfl
@[simp] theorem drawEntropy_diagScale (n : Nat) (s : State) :
    (drawEntropy n s).2.diagScale = s.diagScale := rfl
@[simp] theorem drawEntropy_mem (n : Nat) (s : State) :
    (drawEntropy n s).2.mem = s.mem := rfl
@[simp] theorem drawEntropy_params (n : Nat) (s : State) :
    (drawEntropy n s).2.params = s.params := rfl
@[simp] theorem drawEntropy_env (n : Nat) (s : State) :
    (drawEntropy n s).2.env = { s.env with entropyIn := s.env.entropyIn.drop n, entropyCount := s.env.entropyCount + n } := rfl

@[simp] theorem drawGauss_irqEn (n : Nat) (s : State) :
    (drawGauss n s).2.irqEn = s.irqEn := rfl
@[simp] theorem drawGauss_busy (n : Nat) (s : State) :
    (drawGauss n s).2.busy = s.busy := rfl
@[simp] theorem drawGauss_done (n : Nat) (s : State) :
    (drawGauss n s).2.done = s.done := rfl
@[simp] theorem drawGauss_err (n : Nat) (s : State) :
    (drawGauss n s).2.err = s.err := rfl
@[simp] theorem drawGauss_cmpOk (n : Nat) (s : State) :
    (drawGauss n s).2.cmpOk = s.cmpOk := rfl
@[simp] theorem drawGauss_cfgValid (n : Nat) (s : State) :
    (drawGauss n s).2.cfgValid = s.cfgValid := rfl
@[simp] theorem drawGauss_errcode (n : Nat) (s : State) :
    (drawGauss n s).2.errcode = s.errcode := rfl
@[simp] theorem drawGauss_cmd (n : Nat) (s : State) :
    (drawGauss n s).2.cmd = s.cmd := rfl
@[simp] theorem drawGauss_fs (n : Nat) (s : State) :
    (drawGauss n s).2.fs = s.fs := rfl
@[simp] theorem drawGauss_fc (n : Nat) (s : State) :
    (drawGauss n s).2.fc = s.fc := rfl
@[simp] theorem drawGauss_sf (n : Nat) (s : State) :
    (drawGauss n s).2.sf = s.sf := rfl
@[simp] theorem drawGauss_tsym (n : Nat) (s : State) :
    (drawGauss n s).2.tsym = s.tsym := rfl
@[simp] theorem drawGauss_snrDb (n : Nat) (s : State) :
    (drawGauss n s).2.snrDb = s.snrDb := rfl
@[simp] theorem drawGauss_amp (n : Nat) (s : State) :
    (drawGauss n s).2.amp = s.amp := rfl
@[simp] theorem drawGauss_phase (n : Nat) (s : State) :
    (drawGauss n s).2.phase = s.phase := rfl
@[simp] theorem drawGauss_seed (n : Nat) (s : State) :
    (drawGauss n s).2.seed = s.seed := rfl
@[simp] theorem drawGauss_tc (n : Nat) (s : State) :
    (drawGauss n s).2.tc = s.tc := rfl
@[simp] theorem drawGauss_ns (n : Nat) (s : State) :
    (drawGauss n s).2.ns = s.ns := rfl
@[simp] theorem drawGauss_nss (n : Nat) (s : State) :
    (drawGauss n s).2.nss = s.nss := rfl
@[simp] theorem drawGauss_lfsr (n : Nat) (s : State) :
    (drawGauss n s).2.lfsr = s.lfsr := rfl
@[simp] theorem drawGauss_len (n : Nat) (s : State) :
    (drawGauss n s).2.len = s.len := rfl
@[simp] theorem drawGauss_frameKind (n : Nat) (s : State) :
    (drawGauss n s).2.frameKind = s.frameKind := rfl
@[simp] theorem drawGauss_field (n : Nat) (s : State) :
    (drawGauss n s).2.field = s.field := rfl
@[simp] theorem drawGauss_dfield (n : Nat) (s : State) :
    (drawGauss n s).2.dfield = s.dfield := rfl
@[simp] theorem drawGauss_cksum (n : Nat) (s : State) :
    (drawGauss n s).2.cksum = s.cksum := rfl
@[simp] theorem drawGauss_cksumSum (n : Nat) (s : State) :
    (drawGauss n s).2.cksumSum = s.cksumSum := rfl
@[simp] theorem drawGauss_mismatch (n : Nat) (s : State) :
    (drawGauss n s).2.mismatch = s.mismatch := rfl
@[simp] theorem drawGauss_diagNormSig (n : Nat) (s : State) :
    (drawGauss n s).2.diagNormSig = s.diagNormSig := rfl
@[simp] theorem drawGauss_diagNormNoise (n : Nat) (s : State) :
    (drawGauss n s).2.diagNormNoise = s.diagNormNoise := rfl
@[simp] theorem drawGauss_diagScale (n : Nat) (s : State) :
    (drawGauss n s).2.diagScale = s.diagScale := rfl
@[simp] theorem drawGauss_mem (n : Nat) (s : State) :
    (drawGauss n s).2.mem = s.mem := rfl
@[simp] theorem drawGauss_params (n : Nat) (s : State) :
    (drawGauss n s).2.params = s.params := rfl
@[simp] theorem drawGauss_env (n : Nat) (s : State) :
    (drawGauss n s).2.env = { s.env with gaussIn := s.env.gaussIn.drop n, gaussCount := s.env.gaussCount + n } := rfl

@[simp] theorem putDiagnostics_irqEn (b : Bool) (w g : List F64) (x : F64) (s : State) :
    (putDiagnostics b w g x s).irqEn = s.irqEn := rfl
@[simp] theorem putDiagnostics_busy (b : Bool) (w g : List F64) (x : F64) (s : State) :
    (putDiagnostics b w g x s).busy = s.busy := rfl
@[simp] theorem putDiagnostics_done (b : Bool) (w g : List F64) (x : F64) (s : State) :
    (putDiagnostics b w g x s).done = s.done := rfl
@[simp] theorem putDiagnostics_err (b : Bool) (w g : List F64) (x : F64) (s : State) :
    (putDiagnostics b w g x s).err = s.err := rfl
@[simp] theorem putDiagnostics_cmpOk (b : Bool) (w g : List F64) (x : F64) (s : State) :
    (putDiagnostics b w g x s).cmpOk = s.cmpOk := rfl
@[simp] theorem putDiagnostics_cfgValid (b : Bool) (w g : List F64) (x : F64) (s : State) :
    (putDiagnostics b w g x s).cfgValid = s.cfgValid := rfl
@[simp] theorem putDiagnostics_errcode (b : Bool) (w g : List F64) (x : F64) (s : State) :
    (putDiagnostics b w g x s).errcode = s.errcode := rfl
@[simp] theorem putDiagnostics_cmd (b : Bool) (w g : List F64) (x : F64) (s : State) :
    (putDiagnostics b w g x s).cmd = s.cmd := rfl
@[simp] theorem putDiagnostics_fs (b : Bool) (w g : List F64) (x : F64) (s : State) :
    (putDiagnostics b w g x s).fs = s.fs := rfl
@[simp] theorem putDiagnostics_fc (b : Bool) (w g : List F64) (x : F64) (s : State) :
    (putDiagnostics b w g x s).fc = s.fc := rfl
@[simp] theorem putDiagnostics_sf (b : Bool) (w g : List F64) (x : F64) (s : State) :
    (putDiagnostics b w g x s).sf = s.sf := rfl
@[simp] theorem putDiagnostics_tsym (b : Bool) (w g : List F64) (x : F64) (s : State) :
    (putDiagnostics b w g x s).tsym = s.tsym := rfl
@[simp] theorem putDiagnostics_snrDb (b : Bool) (w g : List F64) (x : F64) (s : State) :
    (putDiagnostics b w g x s).snrDb = s.snrDb := rfl
@[simp] theorem putDiagnostics_amp (b : Bool) (w g : List F64) (x : F64) (s : State) :
    (putDiagnostics b w g x s).amp = s.amp := rfl
@[simp] theorem putDiagnostics_phase (b : Bool) (w g : List F64) (x : F64) (s : State) :
    (putDiagnostics b w g x s).phase = s.phase := rfl
@[simp] theorem putDiagnostics_seed (b : Bool) (w g : List F64) (x : F64) (s : State) :
    (putDiagnostics b w g x s).seed = s.seed := rfl
@[simp] theorem putDiagnostics_tc (b : Bool) (w g : List F64) (x : F64) (s : State) :
    (putDiagnostics b w g x s).tc = s.tc := rfl
@[simp] theorem putDiagnostics_ns (b : Bool) (w g : List F64) (x : F64) (s : State) :
    (putDiagnostics b w g x s).ns = s.ns := rfl
@[simp] theorem putDiagnostics_nss (b : Bool) (w g : List F64) (x : F64) (s : State) :
    (putDiagnostics b w g x s).nss = s.nss := rfl
@[simp] theorem putDiagnostics_lfsr (b : Bool) (w g : List F64) (x : F64) (s : State) :
    (putDiagnostics b w g x s).lfsr = s.lfsr := rfl
@[simp] theorem putDiagnostics_len (b : Bool) (w g : List F64) (x : F64) (s : State) :
    (putDiagnostics b w g x s).len = s.len := rfl
@[simp] theorem putDiagnostics_frameKind (b : Bool) (w g : List F64) (x : F64) (s : State) :
    (putDiagnostics b w g x s).frameKind = s.frameKind := rfl
@[simp] theorem putDiagnostics_field (b : Bool) (w g : List F64) (x : F64) (s : State) :
    (putDiagnostics b w g x s).field = s.field := rfl
@[simp] theorem putDiagnostics_dfield (b : Bool) (w g : List F64) (x : F64) (s : State) :
    (putDiagnostics b w g x s).dfield = s.dfield := rfl
@[simp] theorem putDiagnostics_cksum (b : Bool) (w g : List F64) (x : F64) (s : State) :
    (putDiagnostics b w g x s).cksum = s.cksum := rfl
@[simp] theorem putDiagnostics_cksumSum (b : Bool) (w g : List F64) (x : F64) (s : State) :
    (putDiagnostics b w g x s).cksumSum = s.cksumSum := rfl
@[simp] theorem putDiagnostics_mismatch (b : Bool) (w g : List F64) (x : F64) (s : State) :
    (putDiagnostics b w g x s).mismatch = s.mismatch := rfl
@[simp] theorem putDiagnostics_diagNormSig (b : Bool) (w g : List F64) (x : F64) (s : State) :
    (putDiagnostics b w g x s).diagNormSig = norm w := rfl
@[simp] theorem putDiagnostics_diagNormNoise (b : Bool) (w g : List F64) (x : F64) (s : State) :
    (putDiagnostics b w g x s).diagNormNoise = (if b then norm g else posZero) := rfl
@[simp] theorem putDiagnostics_diagScale (b : Bool) (w g : List F64) (x : F64) (s : State) :
    (putDiagnostics b w g x s).diagScale = (if b then x else posZero) := rfl
@[simp] theorem putDiagnostics_mem (b : Bool) (w g : List F64) (x : F64) (s : State) :
    (putDiagnostics b w g x s).mem = s.mem := rfl
@[simp] theorem putDiagnostics_params (b : Bool) (w g : List F64) (x : F64) (s : State) :
    (putDiagnostics b w g x s).params = s.params := rfl
@[simp] theorem putDiagnostics_env (b : Bool) (w g : List F64) (x : F64) (s : State) :
    (putDiagnostics b w g x s).env = s.env := rfl

end Sys2Proof.Machine
end

