-- ==== Sys2Proof/Laws/Bus.lean ====
section
/-! SUPPORT. What a bus transaction and a host access can do, said once each. -/

namespace Sys2Proof.Machine

/-- A completed read changes nothing but the word read. -/
theorem busRead_eq_next (a : BusAddr) (s t : State) (h : busRead a s = .next t) :
    ∃ w, t = { s with env := { s.env with rdata := some w } } := by
  unfold busRead at h
  split at h
  · cases h
  · split at h
    · split at h
      · cases h
      · exact ⟨_, by simpa [answer, eq_comm] using h⟩
    · split at h
      · cases h
      · split at h
        · cases h
        · exact ⟨_, by simpa [answer, eq_comm] using h⟩

/-- A completed write, on an idle block, is a register's write or stores one element below its region's
capacity, outside SPLUS. -/
theorem busWrite_eq_next (a : BusAddr) (w : Word) (s t : State) (h : busWrite a w s = .next t) :
    s.busy = false ∧
      ((regionOf (addrRegion a) = none ∧
          ∃ c, csrOf (addrIndex a) = some c ∧ csrWrite w s c = some t) ∨
        ∃ r, regionOf (addrRegion a) = some r ∧ r ≠ .splus ∧ addrIndex a < s.cap r ∧
          t = s.putElem r (addrIndex a) (storedBits r w)) := by
  unfold busWrite at h
  split at h
  · cases h
  · rename_i hb
    refine ⟨by simpa using hb, ?_⟩
    split at h
    · rename_i hr
      split at h
      · cases h
      · rename_i c hc
        split at h
        · cases h
        · rename_i u hu
          cases h
          exact .inl ⟨hr, c, hc, hu⟩
    · rename_i r hr
      split at h
      · cases h
      · rename_i hn
        cases h
        exact .inr ⟨r, hr, by tauto, by omega, rfl⟩

/-- An access that completes has not reached the block, or is the transaction on the word that lies there. -/
theorem hostAccess_eq_next (tr : BusAddr → State → Host.Outcome State Fault Refusal) (h : Nat)
    (s t : State) :
    hostAccess tr h s = .next t ↔
      (s.covers h = false ∧ t = s) ∨
        s.covers h = true ∧ ∃ a, s.wordAddr h = some a ∧ tr a s = .next t := by
  unfold hostAccess
  cases s.covers h
  · simp [eq_comm]
  · cases s.wordAddr h <;> simp

/-- A word lies at `BASE_ADDR` plus the stride times its address, where the block covers it. -/
theorem wordAddr_placed (s : State) (hp : 1 ≤ s.params.addrStride) (a : BusAddr) :
    s.covers (s.params.baseAddr + s.params.addrStride * a.toNat) = true ∧
      s.wordAddr (s.params.baseAddr + s.params.addrStride * a.toNat) = some a := by
  have ha := Nat.mul_lt_mul_of_pos_left a.isLt hp
  constructor
  · simp only [State.covers, Bool.and_eq_true, decide_eq_true_eq]
    omega
  · simp [State.wordAddr, Nat.mul_div_cancel_left _ hp]

end Sys2Proof.Machine
end

