-- ==== Sys2Proof/Laws/Memory.lean ====
section
/-! SUPPORT. The buffer memory: reading after writing, the canonical form, and reading sequences. -/

namespace Sys2Proof.Machine

theorem Region.idx_injective : Function.Injective Region.idx := by
  intro a b h
  cases a <;> cases b <;> first | rfl | (exact absurd h (by decide))

theorem Region.idx_ne {a b : Region} (h : a ≠ b) : a.idx.val ≠ b.idx.val := by
  intro e
  exact h (Region.idx_injective (Fin.ext e))

/-! ### One buffer -/

/-- A write is read back. -/
@[simp] theorem bufRead_bufWrite_same (b : Buffer) (i : Nat) (v : Word) :
    bufRead (bufWrite b i v) i = some v := by
  induction b with
  | nil => simp [bufWrite, bufRead]
  | cons c rest ih =>
    obtain ⟨j, w⟩ := c
    simp only [bufWrite]
    split
    · simp [bufRead]
    · split
      · simp [bufRead]
      · rename_i h1 h2
        simp [bufRead, Ne.symm h2, ih]

/-- A write leaves every other index alone. -/
theorem bufRead_bufWrite_other (b : Buffer) (i k : Nat) (v : Word) (h : k ≠ i) :
    bufRead (bufWrite b i v) k = bufRead b k := by
  induction b with
  | nil => simp [bufWrite, bufRead, Ne.symm h]
  | cons c rest ih =>
    obtain ⟨j, w⟩ := c
    simp only [bufWrite]
    split
    · simp [bufRead, Ne.symm h]
    · split
      · rename_i h1 h2
        subst h2
        simp [bufRead, Ne.symm h]
      · simp [bufRead, ih]

theorem bufRead_append (a b : Buffer) (i : Nat) :
    bufRead (a ++ b) i = (bufRead a i).or (bufRead b i) := by
  induction a with
  | nil => simp [bufRead]
  | cons c rest ih =>
    obtain ⟨j, w⟩ := c
    by_cases h : j = i <;> simp [bufRead, h, ih]

theorem bufRead_cellsFrom (ws : List Word) (i k : Nat) :
    bufRead (cellsFrom i ws) k = if i ≤ k then ws[k - i]? else none := by
  induction ws generalizing i with
  | nil => simp [cellsFrom, bufRead]
  | cons w ws ih =>
    by_cases h : i = k
    · subst h; simp [cellsFrom, bufRead]
    · simp only [cellsFrom, bufRead, h, if_false, ih]
      by_cases h1 : i + 1 ≤ k
      · have h2 : i ≤ k := by omega
        have h3 : k - i = (k - (i + 1)) + 1 := by omega
        rw [if_pos h1, if_pos h2, h3, List.getElem?_cons_succ]
      · have h2 : ¬ i ≤ k := by omega
        rw [if_neg h1, if_neg h2]

theorem bufRead_filter_ge (b : Buffer) (n k : Nat) (h : n ≤ k) :
    bufRead (b.filter fun c => decide (n ≤ c.1)) k = bufRead b k := by
  induction b with
  | nil => rfl
  | cons c rest ih =>
    obtain ⟨j, w⟩ := c
    by_cases hj : n ≤ j
    · simp [hj, bufRead, ih]
    · have : j ≠ k := by omega
      simp [hj, bufRead, ih, this]

/-- Overwriting from index 0: the new sequence below its length, what was there at or above it. -/
theorem bufRead_bufOverwrite (b : Buffer) (ws : List Word) (k : Nat) :
    bufRead (bufOverwrite b ws) k = if k < ws.length then ws[k]? else bufRead b k := by
  rw [bufOverwrite, bufRead_append, bufRead_cellsFrom]
  by_cases h : k < ws.length
  · simp [h]
  · have h' : ws.length ≤ k := by omega
    simp [h, bufRead_filter_ge b ws.length k h']

/-- Strictly rising indices, as the library says it. -/
theorem Buffer.sorted_iff (b : Buffer) :
    Buffer.sorted b = true ↔ List.Pairwise (fun c d : Cell => c.1 < d.1) b := by
  induction b with
  | nil => simp [Buffer.sorted]
  | cons c rest ih =>
    obtain ⟨i, u⟩ := c
    cases rest with
    | nil => simp [Buffer.sorted]
    | cons d rest =>
      obtain ⟨j, w⟩ := d
      simp only [Buffer.sorted, Bool.and_eq_true, decide_eq_true_eq, ih, List.pairwise_cons]
      constructor
      · rintro ⟨hij, hj, hr⟩
        refine ⟨?_, hj, hr⟩
        intro c hc
        rcases List.mem_cons.mp hc with rfl | hc
        · exact hij
        · exact lt_trans hij (hj c hc)
      · rintro ⟨hi, hj, hr⟩
        exact ⟨hi (j, w) (by simp), hj, hr⟩

theorem bufWrite_mem (b : Buffer) (i : Nat) (v : Word) (c : Cell) (h : c ∈ bufWrite b i v) :
    c = (i, v) ∨ c ∈ b := by
  induction b with
  | nil => simpa [bufWrite] using h
  | cons d rest ih =>
    obtain ⟨j, w⟩ := d
    simp only [bufWrite] at h
    split at h
    · simpa using h
    · split at h
      · rcases List.mem_cons.mp h with h | h
        · exact Or.inl h
        · exact Or.inr (List.mem_cons_of_mem _ h)
      · rcases List.mem_cons.mp h with h | h
        · exact Or.inr (by simp [h])
        · rcases ih h with h | h
          · exact Or.inl h
          · exact Or.inr (List.mem_cons_of_mem _ h)

/-- A write keeps the canonical form. -/
theorem bufWrite_sorted (b : Buffer) (i : Nat) (v : Word) (h : Buffer.sorted b = true) :
    Buffer.sorted (bufWrite b i v) = true := by
  rw [Buffer.sorted_iff] at h ⊢
  induction b with
  | nil => simp [bufWrite]
  | cons d rest ih =>
    obtain ⟨j, w⟩ := d
    have hh := h
    rw [List.pairwise_cons] at h
    simp only [bufWrite]
    split
    · rename_i hij
      rw [List.pairwise_cons]
      refine ⟨?_, hh⟩
      intro c hc
      rcases List.mem_cons.mp hc with rfl | hc
      · exact hij
      · exact lt_trans hij (h.1 c hc)
    · split
      · rename_i h1 h2
        subst h2
        exact List.pairwise_cons.mpr ⟨h.1, h.2⟩
      · rename_i h1 h2
        refine List.pairwise_cons.mpr ⟨?_, ih h.2⟩
        intro c hc
        rcases bufWrite_mem rest i v c hc with rfl | hc
        · show j < i
          omega
        · exact h.1 c hc

theorem cellsFrom_index (i : Nat) (ws : List Word) (c : Cell) (h : c ∈ cellsFrom i ws) :
    i ≤ c.1 ∧ c.1 < i + ws.length := by
  induction ws generalizing i with
  | nil => simp [cellsFrom] at h
  | cons w ws ih =>
    rcases List.mem_cons.mp h with rfl | h
    · simp
    · have := ih (i + 1) h
      simp only [List.length_cons]
      omega

theorem cellsFrom_sorted (i : Nat) (ws : List Word) :
    List.Pairwise (fun c d : Cell => c.1 < d.1) (cellsFrom i ws) := by
  induction ws generalizing i with
  | nil => simp [cellsFrom]
  | cons w ws ih =>
    refine List.pairwise_cons.mpr ⟨?_, ih (i + 1)⟩
    intro c hc
    have := (cellsFrom_index (i + 1) ws c hc).1
    show i < c.1
    omega

/-- Overwriting keeps the canonical form. -/
theorem bufOverwrite_sorted (b : Buffer) (ws : List Word) (h : Buffer.sorted b = true) :
    Buffer.sorted (bufOverwrite b ws) = true := by
  rw [Buffer.sorted_iff] at h ⊢
  refine List.pairwise_append.mpr ⟨cellsFrom_sorted 0 ws, h.filter _, ?_⟩
  intro c hc d hd
  have h1 := (cellsFrom_index 0 ws c hc).2
  have h2 := (List.mem_filter.mp hd).2
  simp only [decide_eq_true_eq] at h2
  omega

/-- Reading back a sequence just laid out. -/
theorem bufTake_cellsFrom (ws : List Word) (i : Nat) (b : Buffer) :
    bufTake (cellsFrom i ws ++ b) i ws.length = some ws := by
  induction ws generalizing i with
  | nil => cases b <;> rfl
  | cons w ws ih => simp [cellsFrom, bufTake, ih]

@[simp] theorem bufTake_bufOverwrite (b : Buffer) (ws : List Word) :
    bufTake (bufOverwrite b ws) 0 ws.length = some ws :=
  bufTake_cellsFrom ws 0 _

theorem bufTake_length (b : Buffer) (i n : Nat) (ws : List Word) (h : bufTake b i n = some ws) :
    ws.length = n := by
  induction n generalizing b i ws with
  | zero => cases b <;> simp_all [bufTake]
  | succ n ih =>
    cases b with
    | nil => simp [bufTake] at h
    | cons c rest =>
      obtain ⟨j, w⟩ := c
      simp only [bufTake] at h
      split at h
      · obtain ⟨vs, hv, rfl⟩ := Option.map_eq_some_iff.mp h
        simp [ih rest (i + 1) vs hv]
      · simp at h

/-- What a sequence read answers is what the single reads answer (no canonical form needed). -/
theorem bufTake_read (b : Buffer) (i n : Nat) (ws : List Word) (h : bufTake b i n = some ws) (k : Nat)
    (hk : k < n) : bufRead b (i + k) = ws[k]? := by
  induction n generalizing b i ws k with
  | zero => omega
  | succ n ih =>
    cases b with
    | nil => simp [bufTake] at h
    | cons c rest =>
      obtain ⟨j, w⟩ := c
      simp only [bufTake] at h
      split at h
      · rename_i hji
        subst hji
        obtain ⟨vs, hv, rfl⟩ := Option.map_eq_some_iff.mp h
        cases k with
        | zero => simp [bufRead]
        | succ k =>
          have h1 : j ≠ j + (k + 1) := by omega
          have h2 : j + (k + 1) = j + 1 + k := by omega
          have := ih rest (j + 1) vs hv k (by omega)
          simp [bufRead, List.getElem?_cons_succ]
          rw [h2, this]
      · simp at h

/-- In a canonical buffer whose elements from `i` on are written, the sequence read succeeds. -/
theorem bufTake_of_written (b : Buffer) (i n : Nat) (hs : List.Pairwise (fun c d : Cell => c.1 < d.1) b)
    (hlow : ∀ c ∈ b, i ≤ c.1) (hw : ∀ k, k < n → ∃ w, bufRead b (i + k) = some w) :
    ∃ ws, bufTake b i n = some ws := by
  induction n generalizing b i with
  | zero => exact ⟨[], by cases b <;> rfl⟩
  | succ n ih =>
    cases b with
    | nil =>
      obtain ⟨w, hw⟩ := hw 0 (by omega)
      simp [bufRead] at hw
    | cons c rest =>
      obtain ⟨j, u⟩ := c
      rw [List.pairwise_cons] at hs
      have hj : j = i := by
        by_contra hne
        have h1 : i ≤ j := hlow (j, u) (by simp)
        obtain ⟨w, hw0⟩ := hw 0 (by omega)
        have hmem : ∀ (l : Buffer), (∀ c ∈ l, i < c.1) → bufRead l i = none := by
          intro l hl
          induction l with
          | nil => rfl
          | cons d l ihl =>
            obtain ⟨m, v⟩ := d
            have : i < m := hl (m, v) (by simp)
            have h3 : m ≠ i := by omega
            simp only [bufRead, h3, if_false]
            exact ihl fun c hc => hl c (by simp [hc])
        have := hmem ((j, u) :: rest) (by
          intro c hc
          rcases List.mem_cons.mp hc with rfl | hc
          · show i < j
            omega
          · have h5 : j < c.1 := hs.1 c hc
            omega)
        rw [Nat.add_zero, this] at hw0
        exact absurd hw0 (by simp)
      subst hj
      obtain ⟨ws, hws⟩ := ih rest (j + 1) hs.2 (fun c hc => hs.1 c hc) (by
        intro k hk
        obtain ⟨w, hw'⟩ := hw (k + 1) (by omega)
        refine ⟨w, ?_⟩
        have h1 : j ≠ j + (k + 1) := by omega
        simp only [bufRead, h1, if_false] at hw'
        rwa [show j + 1 + k = j + (k + 1) by omega])
      exact ⟨u :: ws, by simp [bufTake, hws]⟩

/-- In a canonical buffer, the sequence read from index 0 answers exactly the single reads. -/
theorem bufTake_eq_some_iff (b : Buffer) (n : Nat) (ws : List Word) (hs : Buffer.sorted b = true) :
    bufTake b 0 n = some ws ↔ ws.length = n ∧ ∀ k, k < n → bufRead b k = ws[k]? := by
  constructor
  · intro h
    exact ⟨bufTake_length b 0 n ws h, fun k hk => by simpa using bufTake_read b 0 n ws h k hk⟩
  · rintro ⟨hl, hr⟩
    obtain ⟨vs, hv⟩ := bufTake_of_written b 0 n ((Buffer.sorted_iff b).mp hs) (by simp) (by
      intro k hk
      exact ⟨ws[k]'(by omega), by rw [Nat.zero_add, hr k hk]; simp [show k < ws.length by omega]⟩)
    have hlv := bufTake_length b 0 n vs hv
    have : vs = ws := by
      apply List.ext_getElem?
      intro k
      by_cases hk : k < n
      · rw [← bufTake_read b 0 n vs hv k hk, Nat.zero_add, hr k hk]
      · rw [List.getElem?_eq_none (by omega), List.getElem?_eq_none (by omega)]
    rw [hv, this]

/-! ### The memory of State -/

theorem Region.exists_idx (j : Fin 15) : ∃ r : Region, r.idx = j := by
  fin_cases j
  exacts [⟨.bits, rfl⟩, ⟨.text, rfl⟩, ⟨.codeA, rfl⟩, ⟨.codeB, rfl⟩, ⟨.chips, rfl⟩, ⟨.tx, rfl⟩,
    ⟨.ref, rfl⟩, ⟨.intf, rfl⟩, ⟨.gnoise, rfl⟩, ⟨.rx, rfl⟩, ⟨.desp, rfl⟩, ⟨.corr, rfl⟩, ⟨.result, rfl⟩,
    ⟨.dtext, rfl⟩, ⟨.splus, rfl⟩]

theorem Memory.wf_iff (m : Memory) :
    m.wf = true ↔ ∀ r : Region, Buffer.sorted (m.buffer r) = true := by
  rw [Memory.wf, List.all_eq_true]
  constructor
  · intro h r
    exact h _ (by simp [Memory.buffer])
  · intro h b hb
    obtain ⟨i, hi, rfl⟩ := List.mem_iff_getElem.mp hb
    have hi' : i < 15 := by simpa using hi
    obtain ⟨r, hr⟩ := Region.exists_idx ⟨i, hi'⟩
    have hv : r.idx.val = i := by rw [hr]
    have := h r
    simpa [Memory.buffer, hv] using this

@[simp] theorem Memory.buffer_setBuffer (m : Memory) (r q : Region) (b : Buffer) :
    (m.setBuffer r b).buffer q = if r = q then b else m.buffer q := by
  by_cases h : r = q
  · subst h; simp [Memory.buffer, Memory.setBuffer]
  · simp [Memory.buffer, Memory.setBuffer, h, Region.idx_ne h]

@[simp] theorem elem_putSeq (s : State) (r q : Region) (ws : List Word) (k : Nat) :
    (s.putSeq r ws).elem q k = if r = q ∧ k < ws.length then ws[k]? else s.elem q k := by
  by_cases h : r = q
  · subst h; simp [State.elem, bufRead_bufOverwrite]
  · simp [State.elem, h]

@[simp] theorem lenOf_putSeq (s : State) (r q : Region) (ws : List Word) :
    (s.putSeq r ws).lenOf q = if r = q then ws.length else s.lenOf q := by
  by_cases h : r = q
  · subst h; simp [State.lenOf]
  · simp [State.lenOf, h, Region.idx_ne h]

@[simp] theorem elem_putElem (s : State) (r q : Region) (i k : Nat) (v : Word) :
    (s.putElem r i v).elem q k = if r = q ∧ i = k then some v else s.elem q k := by
  by_cases h : r = q
  · subst h
    by_cases hk : i = k
    · subst hk; simp [State.elem]
    · simp [State.elem, hk, bufRead_bufWrite_other _ _ _ _ (Ne.symm hk)]
  · simp [State.elem, h]

@[simp] theorem lenOf_putElem (s : State) (r q : Region) (i : Nat) (v : Word) :
    (s.putElem r i v).lenOf q = s.lenOf q := rfl

@[simp] theorem lenOf_putLen (s : State) (r q : Region) (n : Nat) :
    (s.putLen r n).lenOf q = if r = q then n else s.lenOf q := by
  by_cases h : r = q
  · subst h; simp [State.lenOf]
  · simp [State.lenOf, h, Region.idx_ne h]

@[simp] theorem elem_putLen (s : State) (r q : Region) (n k : Nat) :
    (s.putLen r n).elem q k = s.elem q k := rfl

/-- Every memory operation keeps the canonical form. -/
theorem putElem_wf (s : State) (r : Region) (i : Nat) (v : Word) (h : s.mem.wf = true) :
    (s.putElem r i v).mem.wf = true := by
  rw [Memory.wf_iff] at h ⊢
  intro q
  simp only [putElem_mem, Memory.buffer_setBuffer]
  split
  · exact bufWrite_sorted _ _ _ (h r)
  · exact h q

theorem putSeq_wf (s : State) (r : Region) (ws : List Word) (h : s.mem.wf = true) :
    (s.putSeq r ws).mem.wf = true := by
  rw [Memory.wf_iff] at h ⊢
  intro q
  simp only [putSeq_mem, Memory.buffer_setBuffer]
  split
  · exact bufOverwrite_sorted _ _ (h r)
  · exact h q

theorem putLen_wf (s : State) (r : Region) (n : Nat) (h : s.mem.wf = true) :
    (s.putLen r n).mem.wf = true := h

/-- The memory after reset is canonical. -/
theorem resetWith_mem_wf (p : Params) (e : Env) : (State.resetWith p e).mem.wf = true := by
  show Memory.wf (Vector.replicate 15 []) = true
  decide

/-- Reading a sequence back right after it was written. -/
@[simp] theorem readSeq_putSeq_same (s : State) (r : Region) (ws : List Word) :
    readSeq (s.putSeq r ws) r ws.length = .ok ws := by
  simp [readSeq]

theorem readSeq_putSeq_other (s : State) (r q : Region) (ws : List Word) (n : Nat) (h : r ≠ q) :
    readSeq (s.putSeq r ws) q n = readSeq s q n := by
  simp [readSeq, h]

/-- What `readSeq` can do: the elements in order, or `UninitRead`. -/
theorem readSeq_ok (s : State) (r : Region) (n : Nat) (ws : List Word) (h : readSeq s r n = .ok ws) :
    ws.length = n ∧ ∀ k, k < n → s.elem r k = ws[k]? := by
  simp only [readSeq] at h
  split at h
  · rename_i vs hv
    cases h
    refine ⟨bufTake_length _ _ _ _ hv, fun k hk => ?_⟩
    have := bufTake_read _ _ _ _ hv k hk
    rwa [Nat.zero_add] at this
  · cases h

theorem readSeq_error (s : State) (r : Region) (n : Nat) (e : Stop) (h : readSeq s r n = .error e) :
    e = .fault .uninitRead := by
  simp only [readSeq] at h
  split at h
  · cases h
  · cases h; rfl

/-- In a canonical memory a sequence of written elements is read. -/
theorem readSeq_of_written (s : State) (r : Region) (n : Nat) (hwf : s.mem.wf = true)
    (h : Written s r n) : readSeq s r n = .ok ((List.range n).map fun k => (s.elem r k).getD 0) := by
  have hs := (Memory.wf_iff s.mem).mp hwf r
  have hb := (bufTake_eq_some_iff (s.mem.buffer r) n
      ((List.range n).map fun k => (s.elem r k).getD 0) hs).mpr (by
    refine ⟨by simp, ?_⟩
    intro k hk
    obtain ⟨w, hw⟩ := Option.isSome_iff_exists.mp (h k hk)
    have hr : bufRead (s.mem.buffer r) k = some w := hw
    simp [hk, hw, hr])
  simp only [readSeq, hb]

end Sys2Proof.Machine
end

