-- ==== Sys2Proof/Laws/Ops.lean ====
section
/-! SUPPORT. What the shared operations can do, said once each. -/

namespace Sys2Proof.Machine

/-! ### Computing in `CmdM` -/

theorem bind_eq_ok {α β : Type} (m : CmdM α) (f : α → CmdM β) (b : β) :
    (m >>= f) = .ok b ↔ ∃ a, m = .ok a ∧ f a = .ok b := by
  cases m <;> simp [bind, Except.bind]

theorem bind_eq_error {α β : Type} (m : CmdM α) (f : α → CmdM β) (e : Stop) :
    (m >>= f) = .error e ↔ m = .error e ∨ ∃ a, m = .ok a ∧ f a = .error e := by
  cases m <;> simp [bind, Except.bind]

@[simp] theorem ok_bind {α β : Type} (a : α) (f : α → CmdM β) :
    ((Except.ok a : CmdM α) >>= f) = f a := rfl

@[simp] theorem error_bind {α β : Type} (e : Stop) (f : α → CmdM β) :
    ((Except.error e : CmdM α) >>= f) = .error e := rfl

theorem pure_eq_ok {α : Type} (a b : α) : (pure a : CmdM α) = .ok b ↔ b = a := by
  simp [pure, Except.pure, eq_comm]

theorem exists_unit {p : Unit → Prop} : (∃ x, p x) ↔ p () :=
  ⟨fun ⟨(), h⟩ => h, fun h => ⟨(), h⟩⟩

theorem pure_ne_error {α : Type} (a : α) (e : Stop) : (pure a : CmdM α) ≠ .error e := by
  simp [pure, Except.pure]

@[simp] theorem raiseIf_false (e : CmdError) : raiseIf false e = .ok () := rfl

@[simp] theorem raiseIf_true (e : CmdError) : raiseIf true e = .error (.raise e) := rfl

theorem raiseIf_eq_ok (c : Bool) (e : CmdError) (u : Unit) : raiseIf c e = .ok u ↔ c = false := by
  cases c <;> simp

theorem raiseIf_eq_error (c : Bool) (e : CmdError) (x : Stop) :
    raiseIf c e = .error x ↔ c = true ∧ x = .raise e := by
  cases c <;> simp [eq_comm]

theorem needConfig_eq_ok (s : State) (u : Unit) : needConfig s = .ok u ↔ s.cfgValid = true := by
  simp [needConfig, raiseIf_eq_ok]

theorem needConfig_eq_error (s : State) (x : Stop) :
    needConfig s = .error x ↔ s.cfgValid = false ∧ x = .raise (.config 8) := by
  simp [needConfig, raiseIf_eq_error]

/-! ### Completing a command -/

/-- A command completes without error with the rule's state, or with an error taken in the start state. -/
theorem complete_eq_next (s t : State) (m : CmdM State) :
    complete s m = .next t ↔
      (∃ u, m = .ok u ∧ t = completeOk u) ∨ ∃ e, m = .error (.raise e) ∧ t = takeError e s := by
  rcases m with (e | f) | u <;> simp [complete, eq_comm]

theorem complete_eq_fault (s : State) (m : CmdM State) (f : Fault) :
    complete s m = .fault f ↔ m = .error (.fault f) := by
  rcases m with (e | f) | u <;> simp [complete]

theorem complete_ne_refused (s : State) (m : CmdM State) (r : Refusal) :
    complete s m ≠ .refused r := by
  rcases m with (e | f) | u <;> simp [complete]

@[simp] theorem complete_ok (s u : State) : complete s (.ok u) = .next (completeOk u) := rfl

@[simp] theorem complete_raise (s : State) (e : CmdError) :
    complete s (.error (.raise e)) = .next (takeError e s) := rfl

@[simp] theorem elem_completeOk (s : State) (r : Region) (k : Nat) :
    (completeOk s).elem r k = s.elem r k := rfl

@[simp] theorem lenOf_completeOk (s : State) (r : Region) : (completeOk s).lenOf r = s.lenOf r := rfl

@[simp] theorem elem_takeError (e : CmdError) (s : State) (r : Region) (k : Nat) :
    (takeError e s).elem r k = s.elem r k := rfl

@[simp] theorem lenOf_takeError (e : CmdError) (s : State) (r : Region) :
    (takeError e s).lenOf r = s.lenOf r := rfl

@[simp] theorem elem_drawGauss (n : Nat) (s : State) (r : Region) (k : Nat) :
    (drawGauss n s).2.elem r k = s.elem r k := rfl

@[simp] theorem elem_drawEntropy (n : Nat) (s : State) (r : Region) (k : Nat) :
    (drawEntropy n s).2.elem r k = s.elem r k := rfl

@[simp] theorem drawGauss_length (n : Nat) (s : State) : (drawGauss n s).1.length = n := by
  simp [drawGauss]

@[simp] theorem drawEntropy_length (n : Nat) (s : State) : (drawEntropy n s).1.length = n := by
  simp [drawEntropy]

/-! ### The sequences commands make have the lengths their rules state -/

@[simp] theorem carrier_length (s : State) (ns : Nat) : (carrier s ns).length = ns := by
  simp [carrier]

@[simp] theorem lfsrRun_length (n : Nat) (x : BitVec 16) : (lfsrRun n x).1.length = n := by
  induction n generalizing x with
  | zero => rfl
  | succ n ih => simp [lfsrRun, ih]

@[simp] theorem spreadChips_length (bits code : List Bool) :
    (spreadChips bits code).length = bits.length * code.length := by
  simp [spreadChips, List.length_flatMap]

@[simp] theorem chipWaveform_length (chips : List Bool) (sp : List F64) :
    (chipWaveform chips sp).length = chips.length * sp.length := by
  simp [chipWaveform, List.length_flatMap]

@[simp] theorem referenceCarrier_length (n : Nat) (sp : List F64) :
    (referenceCarrier n sp).length = n * sp.length := by
  simp [referenceCarrier]

@[simp] theorem sampleSigns_length (code : List Bool) (f ns chips : Nat) :
    (sampleSigns code f ns chips).length = chips * ns := by
  simp [sampleSigns, List.length_flatMap]

@[simp] theorem windows_length (size n : Nat) (xs : List F64) : (windows size n xs).length = n := by
  induction n generalizing xs with
  | zero => rfl
  | succ n ih => simp [windows, ih]

@[simp] theorem correlations_length (size n : Nat) (r d : List F64) :
    (correlations size n r d).length = n := by
  simp [correlations]

@[simp] theorem byteBits_length (u : Nat) : (byteBits u).length = 8 := rfl

@[simp] theorem flatMap_byteBits_length (us : List Nat) :
    (us.flatMap byteBits).length = 8 * us.length := by
  induction us with
  | nil => rfl
  | cons u us ih => simp only [List.flatMap_cons, List.length_append, ih, byteBits_length,
      List.length_cons]; omega

@[simp] theorem fieldBytes_length (s : State) : (fieldBytes s).length = 12 := by
  simp [fieldBytes]

@[simp] theorem frameBits_length (s : State) (text : List Nat) :
    (frameBits s text).length = 96 + 8 * text.length := by
  simp only [frameBits, flatMap_byteBits_length, List.length_append, fieldBytes_length]
  omega

/-! ### Element `i` of a sequence made of blocks of one size -/

theorem getElem?_flatMap_blocks {α β : Type} (xs : List α) (f : α → List β) (n : Nat)
    (hf : ∀ x ∈ xs, (f x).length = n) (i j : Nat) (hj : j < n) :
    (xs.flatMap f)[i * n + j]? = xs[i]?.bind fun x => (f x)[j]? := by
  induction xs generalizing i with
  | nil => simp
  | cons x xs ih =>
    have hx : (f x).length = n := hf x (by simp)
    rw [List.flatMap_cons]
    cases i with
    | zero => simp [List.getElem?_append_left (show j < (f x).length by omega)]
    | succ i =>
      rw [List.getElem?_append_right (by rw [hx]; nlinarith)]
      have : (i + 1) * n + j - (f x).length = i * n + j := by
        rw [hx, Nat.succ_mul]; omega
      rw [this, ih fun y hy => hf y (by simp [hy])]
      simp

/-- Chip `k * f + j` of a spread sequence (R165). -/
theorem spreadChips_getElem? (bits code : List Bool) (k j : Nat) (hj : j < code.length) :
    (spreadChips bits code)[k * code.length + j]? =
      bits[k]?.map fun b => bipMul b code[j] := by
  rw [spreadChips, getElem?_flatMap_blocks _ _ code.length (by simp) _ _ hj]
  cases bits[k]? <;> simp [hj]

theorem chipWaveform_getElem? (chips : List Bool) (sp : List F64) (k n : Nat) (hn : n < sp.length) :
    (chipWaveform chips sp)[k * sp.length + n]? = chips[k]?.map fun c => signed c sp[n] := by
  rw [chipWaveform, getElem?_flatMap_blocks _ _ sp.length (by simp) _ _ hn]
  cases chips[k]? <;> simp [hn]

theorem sampleSigns_getElem? (code : List Bool) (f ns chips k n : Nat) (hk : k < chips) (hn : n < ns) :
    (sampleSigns code f ns chips)[k * ns + n]? = some (code.getD (k % f) true) := by
  rw [sampleSigns, getElem?_flatMap_blocks _ _ ns (by simp) _ _ hn]
  simp [hk, hn]

theorem referenceCarrier_eq (chips : Nat) (sp : List F64) :
    referenceCarrier chips sp = (List.range chips).flatMap fun _ => sp := by
  rw [referenceCarrier, List.flatMap_def]
  congr 1
  rw [List.map_const', List.length_range]

theorem referenceCarrier_getElem? (chips : Nat) (sp : List F64) (k n : Nat) (hk : k < chips)
    (hn : n < sp.length) : (referenceCarrier chips sp)[k * sp.length + n]? = some sp[n] := by
  rw [referenceCarrier_eq, getElem?_flatMap_blocks _ _ sp.length (by simp) _ _ hn]
  simp [hk, hn]

theorem windows_getElem? (size n : Nat) (xs : List F64) (i : Nat) (hi : i < n) :
    (windows size n xs)[i]? = some ((xs.drop (i * size)).take size) := by
  induction n generalizing xs i with
  | zero => omega
  | succ n ih =>
    cases i with
    | zero => simp [windows]
    | succ i =>
      simp only [windows, List.getElem?_cons_succ]
      rw [ih _ _ (by omega), List.drop_drop, Nat.succ_mul, Nat.add_comm]

/-! ### Text -/

/-- What `scanText` can answer: the code points in order, all ASCII; or it stops. -/
theorem scanText_ok (s : State) (j n : Nat) (cs : List Nat) (h : scanText s j n = .ok cs) :
    cs.length = n ∧ ∀ k, k < n →
      ∃ w, s.elem .text (j + k) = some w ∧ cs[k]? = some (elemCodePoint w) ∧ elemCodePoint w ≤ 127 := by
  induction n generalizing j cs with
  | zero => simp [scanText] at h; simp [← h]
  | succ n ih =>
    simp only [scanText] at h
    split at h
    · cases h
    · rename_i w hw
      split at h
      · cases h
      · rename_i hle
        obtain ⟨rest, hr, hp⟩ := (bind_eq_ok _ _ _).mp h
        obtain rfl := (pure_eq_ok _ _).mp hp
        obtain ⟨hl, hk⟩ := ih (j + 1) rest hr
        refine ⟨by simp [hl], fun k hk' => ?_⟩
        cases k with
        | zero => exact ⟨w, hw, by simp, by omega⟩
        | succ k =>
          obtain ⟨v, h1, h2, h3⟩ := hk k (by omega)
          exact ⟨v, by rw [show j + (k + 1) = j + 1 + k by omega]; exact h1, by simpa using h2, h3⟩

theorem scanText_of_ascii (s : State) (j n : Nat)
    (h : ∀ k, k < n → ∃ w, s.elem .text (j + k) = some w ∧ elemCodePoint w ≤ 127) :
    scanText s j n = .ok ((List.range n).map fun k => elemCodePoint ((s.elem .text (j + k)).getD 0)) := by
  induction n generalizing j with
  | zero => rfl
  | succ n ih =>
    obtain ⟨w, hw, hle⟩ := h 0 (by omega)
    rw [Nat.add_zero] at hw
    have hrec := ih (j + 1) fun k hk => by
      obtain ⟨v, hv⟩ := h (k + 1) (by omega)
      exact ⟨v, by rw [show j + 1 + k = j + (k + 1) by omega]; exact hv⟩
    have hn : ¬ 127 < elemCodePoint w := by omega
    simp only [scanText, hw, hn, if_false, hrec, ok_bind]
    rw [List.range_succ_eq_map]
    simp only [List.map_cons, List.map_map, Nat.add_zero, hw, Option.getD_some]
    simp only [pure, Except.pure, Except.ok.injEq, List.cons.injEq, true_and]
    apply List.map_congr_left
    intro k _
    simp only [Function.comp, Nat.succ_eq_add_one]
    rw [show j + 1 + k = j + (k + 1) by omega]

end Sys2Proof.Machine
end

