-- ==== Sys2Proof/Laws/Commands.lean ====
section
/-! SUPPORT. One lemma per command: when its rule succeeds, and with which state. -/

namespace Sys2Proof.Machine

theorem configInputs_eq_ok (s : State) (u : Unit) :
    configInputs s = .ok u ↔
      0 < s.sf.toInt ∧ s.sf.toInt ≤ s.cap .codeA ∧
      (isFinite s.fs = true ∧ fgt s.fs posZero = true) ∧
      (isFinite s.fc = true ∧ flt s.fc posZero = false) ∧
      fgt s.fs (fmul fTwo s.fc) = true ∧
      (isFinite s.tsym = true ∧ fgt s.tsym posZero = true) := by
  rw [configInputs]
  simp only [bind_eq_ok, raiseIf_eq_ok, exists_unit]
  simp

theorem configCount_eq_ok (s : State) (n : Nat) :
    configCount s = .ok n ↔
      isFinite (sampleCount s) = true ∧ 1 ≤ roundHalfEven (sampleCount s) ∧
      roundHalfEven (sampleCount s) ≤ s.cap .splus ∧ n = (roundHalfEven (sampleCount s)).toNat := by
  rw [configCount]
  simp only [bind_eq_ok, raiseIf_eq_ok, pure_eq_ok, exists_unit]
  simp

theorem configRule_eq_ok (s t : State) :
    configRule s = .ok t ↔
      configInputs s = .ok () ∧ ∃ ns, configCount s = .ok ns ∧
        carrierDegenerate (carrier s ns) = false ∧ t = configured s ns := by
  rw [configRule]
  simp only [bind_eq_ok, raiseIf_eq_ok, pure_eq_ok, exists_unit]

theorem checkFields_eq_ok (s : State) (u : Unit) :
    checkFields s = .ok u ↔ ∀ v ∈ s.field.toList, inFieldRange v = true := by
  simp only [checkFields]
  split
  · rename_i k hk
    obtain ⟨hlt, hp, -⟩ := List.findIdx?_eq_some_iff_getElem.mp hk
    simp only [reduceCtorEq, false_iff, not_forall]
    exact ⟨_, List.getElem_mem hlt, by simpa using hp⟩
  · rename_i hk
    simpa using hk

theorem encodeRule_eq_ok (s t : State) :
    encodeRule s = .ok t ↔
      (∀ v ∈ s.field.toList, inFieldRange v = true) ∧
      ∃ text, scanText s 0 (textCount s) = .ok text ∧ 96 + 8 * textCount s ≤ s.cap .bits ∧
        t = s.putSeq .bits ((frameBits s text).map bitElem) := by
  rw [encodeRule]
  simp only [bind_eq_ok, raiseIf_eq_ok, pure_eq_ok, checkFields_eq_ok, exists_unit]
  simp

theorem checkFrameLength_eq_ok (s : State) (n : Nat) (u : Unit) :
    checkFrameLength s n = .ok u ↔ n % 8 = 0 ∧ 96 ≤ n ∧ (n - 96) / 8 ≤ s.cap .dtext := by
  rw [checkFrameLength]
  simp only [bind_eq_ok, raiseIf_eq_ok, exists_unit]
  simp

theorem decodeBytes_eq_ok (src : BitSource) (s : State) (bytes : List Nat) :
    decodeBytes src s = .ok bytes ↔
      checkFrameLength s (s.lenOf (bitRegion src)) = .ok () ∧
      ∃ els, readAll s (bitRegion src) = .ok els ∧ bytes = bytesOf (els.map elemBit) := by
  rw [decodeBytes]
  simp only [bind_eq_ok, pure_eq_ok, exists_unit]

theorem decodeRule_eq_ok (src : BitSource) (s t : State) :
    decodeRule src s = .ok t ↔ ∃ bytes, decodeBytes src s = .ok bytes ∧ t = decodedInto s bytes := by
  rw [decodeRule]
  simp only [bind_eq_ok, pure_eq_ok]

theorem checksumRule_eq_ok (s t : State) :
    checksumRule s = .ok t ↔
      (∀ v ∈ s.field.toList, inFieldRange v = true) ∧
      t = { s with
        cksumSum := BitVec.ofNat 12 (checksumSum s)
        cksum := BitVec.ofNat 8 (checksumSum s % 256) } := by
  rw [checksumRule]
  simp only [bind_eq_ok, pure_eq_ok, checkFields_eq_ok, exists_unit]

theorem compareRule_eq_ok (src : BitSource) (s t : State) :
    compareRule src s = .ok t ↔
      ∃ bytes, decodeBytes src s = .ok bytes ∧
      ∃ d, textDiffers (bytes.drop 12) s = .ok d ∧
        t = { decodedInto s bytes with
          mismatch := BitVec.ofNat 13 (maskOf (fieldDiffs (decodedFields bytes) s ++ [d]))
          cmpOk := maskOf (fieldDiffs (decodedFields bytes) s ++ [d]) == 0 } := by
  rw [compareRule]
  simp only [bind_eq_ok, pure_eq_ok]

theorem pnGenRule_eq_ok (dst : CodeSel) (src : PnSource) (s t : State) :
    pnGenRule dst src s = .ok t ↔
      s.cfgValid = true ∧
        t = (pnCode src s.sf.toInt.toNat s).2.putSeq (codeRegion dst)
          ((pnCode src s.sf.toInt.toNat s).1.map bitElem) := by
  rw [pnGenRule]
  simp only [bind_eq_ok, pure_eq_ok, needConfig_eq_ok, exists_unit]

theorem checkCodeLength_eq_ok (sel : CodeSel) (s : State) (u : Unit) :
    checkCodeLength sel s = .ok u ↔ (s.lenOf (codeRegion sel) : Int) = s.sf.toInt := by
  simp [checkCodeLength, raiseIf_eq_ok]

theorem spreadRule_eq_ok (sel : CodeSel) (s t : State) :
    spreadRule sel s = .ok t ↔
      s.cfgValid = true ∧ (s.lenOf (codeRegion sel) : Int) = s.sf.toInt ∧
      s.lenOf .bits * s.lenOf (codeRegion sel) ≤ s.cap .chips ∧
      ∃ bits, readAll s .bits = .ok bits ∧
      ∃ code, readSeq s (codeRegion sel)
          (if s.lenOf .bits = 0 then 0 else s.lenOf (codeRegion sel)) = .ok code ∧
        t = s.putSeq .chips ((spreadChips (bits.map elemBit) (code.map elemBit)).map bitElem) := by
  rw [spreadRule]
  simp only [bind_eq_ok, pure_eq_ok, needConfig_eq_ok, checkCodeLength_eq_ok, raiseIf_eq_ok, exists_unit]
  simp

theorem modulateChecks_eq_ok (noise intf : Bool) (gsrc : GaussSource) (s : State) (u : Unit) :
    modulateChecks noise intf gsrc s = .ok u ↔
      s.cfgValid = true ∧ modulateLength s ≤ s.cap .tx ∧
      (intf = true → s.lenOf .intf = modulateLength s) ∧
      (noise = true → gsrc = .gnoise → s.lenOf .gnoise = modulateLength s) := by
  rw [modulateChecks]
  simp only [bind_eq_ok, needConfig_eq_ok, raiseIf_eq_ok, exists_unit]
  cases noise <;> cases intf <;> cases gsrc <;> simp

theorem checkWaveLength_eq_ok (x : WaveSel) (s : State) (u : Unit) :
    checkWaveLength x s = .ok u ↔ s.lenOf (waveRegion x) % s.ns.toNat = 0 := by
  simp [checkWaveLength, raiseIf_eq_ok]

theorem refgenRule_eq_ok (x : WaveSel) (s t : State) :
    refgenRule x s = .ok t ↔
      s.cfgValid = true ∧ s.lenOf (waveRegion x) % s.ns.toNat = 0 ∧
      ∃ splus, readSplus s (s.lenOf (waveRegion x) / s.ns.toNat) = .ok splus ∧
        t = s.putSeq .ref (referenceCarrier (s.lenOf (waveRegion x) / s.ns.toNat) splus) := by
  rw [refgenRule]
  simp only [bind_eq_ok, pure_eq_ok, needConfig_eq_ok, checkWaveLength_eq_ok, exists_unit]

theorem despreadData_eq_ok (sel : CodeSel) (x : WaveSel) (s : State) (d : List F64) :
    despreadData sel x s = .ok d ↔
      ∃ code, readSeq s (codeRegion sel)
          (min (s.lenOf (codeRegion sel)) (s.lenOf (waveRegion x) / s.ns.toNat)) = .ok code ∧
      ∃ wave, readAll s (waveRegion x) = .ok wave ∧
        d = despreadWave (code.map elemBit) (s.lenOf (codeRegion sel)) s.ns.toNat
          (s.lenOf (waveRegion x) / s.ns.toNat) wave := by
  rw [despreadData]
  simp only [bind_eq_ok, pure_eq_ok]

theorem despreadRule_eq_ok (sel : CodeSel) (x : WaveSel) (s t : State) :
    despreadRule sel x s = .ok t ↔
      s.cfgValid = true ∧ (s.lenOf (codeRegion sel) : Int) = s.sf.toInt ∧
      s.lenOf (waveRegion x) % s.ns.toNat = 0 ∧
      ∃ d, despreadData sel x s = .ok d ∧ t = s.putSeq .desp d := by
  rw [despreadRule]
  simp only [bind_eq_ok, pure_eq_ok, needConfig_eq_ok, checkCodeLength_eq_ok,
    checkWaveLength_eq_ok, exists_unit]

theorem correlateChecks_eq_ok (m : Nat) (s : State) (u : Unit) :
    correlateChecks m s = .ok u ↔
      m % s.nss.toNat = 0 ∧ s.lenOf .ref = m ∧ m / s.nss.toNat ≤ s.cap .result := by
  rw [correlateChecks]
  simp only [bind_eq_ok, raiseIf_eq_ok, exists_unit]
  simp

theorem correlateRule_eq_ok (s t : State) :
    correlateRule s = .ok t ↔
      s.cfgValid = true ∧ correlateChecks (s.lenOf .desp) s = .ok () ∧
      ∃ ref, readSeq s .ref (s.lenOf .desp) = .ok ref ∧
      ∃ desp, readSeq s .desp (s.lenOf .desp) = .ok desp ∧
        t = putCorrelations
          (correlations s.nss.toNat (s.lenOf .desp / s.nss.toNat) ref desp) s := by
  rw [correlateRule]
  simp only [bind_eq_ok, pure_eq_ok, needConfig_eq_ok, exists_unit]

theorem demodRule_eq_ok (sel : CodeSel) (x : WaveSel) (s t : State) :
    demodRule sel x s = .ok t ↔
      s.cfgValid = true ∧ (s.lenOf (codeRegion sel) : Int) = s.sf.toInt ∧
      s.lenOf (waveRegion x) % s.ns.toNat = 0 ∧
      correlateChecks (s.lenOf (waveRegion x)) s = .ok () ∧
      ∃ d, despreadData sel x s = .ok d ∧
      ∃ ref, readSeq s .ref (s.lenOf (waveRegion x)) = .ok ref ∧
        t = putCorrelations
          (correlations s.nss.toNat (s.lenOf (waveRegion x) / s.nss.toNat) ref d)
          (s.putSeq .desp d) := by
  rw [demodRule]
  simp only [bind_eq_ok, pure_eq_ok, needConfig_eq_ok, checkCodeLength_eq_ok,
    checkWaveLength_eq_ok, exists_unit]

/-- MODULATE up to the noise draw, without NOISE. -/
theorem modulateStart_clean_eq_ok (intf : Bool) (gsrc : GaussSource) (s : State)
    (p : Modulated × State) :
    modulateStart false intf gsrc s = .ok p ↔
      modulateChecks false intf gsrc s = .ok () ∧
      ∃ chips, readAll s .chips = .ok chips ∧
      ∃ splus, readSplus s (s.lenOf .chips) = .ok splus ∧
        p = (⟨chipWaveform (chips.map elemBit) splus, referenceCarrier (s.lenOf .chips) splus, []⟩, s) := by
  rw [modulateStart]
  simp only [bind_eq_ok, pure_eq_ok, exists_unit, Bool.false_eq_true, if_false]

/-- MODULATE up to the noise draw, with NOISE. -/
theorem modulateStart_noise_eq_ok (intf : Bool) (gsrc : GaussSource) (s : State)
    (p : Modulated × State) :
    modulateStart true intf gsrc s = .ok p ↔
      modulateChecks true intf gsrc s = .ok () ∧
      ∃ chips, readAll s .chips = .ok chips ∧
      ∃ splus, readSplus s (s.lenOf .chips) = .ok splus ∧
        isFinite s.snrDb = true ∧
        isFinite (norm (chipWaveform (chips.map elemBit) splus)) = true ∧
        isZero (norm (chipWaveform (chips.map elemBit) splus)) = false ∧
        ∃ g, noiseDraw gsrc (modulateLength s) s = .ok g ∧
          p = (⟨chipWaveform (chips.map elemBit) splus,
            referenceCarrier (s.lenOf .chips) splus, g.1⟩, g.2) := by
  rw [modulateStart]
  simp only [bind_eq_ok, pure_eq_ok, raiseIf_eq_ok, exists_unit, if_true, Bool.not_eq_false',
    Bool.or_eq_false_iff, and_assoc]

/-- MODULATE from the draw on. -/
theorem modulateFinish_eq_ok (noise intf diag : Bool) (m : Modulated) (s t : State) :
    modulateFinish noise intf diag m s = .ok t ↔
      ∃ sc, scaledNoise noise s m.wave m.draw = .ok sc ∧
      ∃ i, readSeq s .intf (if intf then modulateLength s else 0) = .ok i ∧
        t = (let noisy := if noise then addWaves m.wave sc.1 else m.wave
          let u := (s.putSeq .tx (if intf then addWaves noisy i else noisy)).putSeq .ref m.ref
          if diag then putDiagnostics noise m.wave sc.1 sc.2 u else u) := by
  rw [modulateFinish]
  simp only [bind_eq_ok, pure_eq_ok]

end Sys2Proof.Machine
end

