-- ==== Sys2Proof/Laws/PerInstr.lean ====
section
/-! SUPPORT. What is said of every command as syntax, one lemma per constructor: the word the encoder
writes for it is legal by the match and mask table of 30_encoding.md R95. -/

namespace Sys2Proof.Laws.WellFormedEncoding

/-- The encoder's word spells a command by the masks of R95. -/
def Statement (i : Instr) : Prop :=
  i.wf = true

theorem nop : Statement .nop := by unfold Statement; decide
theorem config : Statement .config := by unfold Statement; decide
theorem pnSeed : Statement .pnSeed := by unfold Statement; decide
theorem encode : Statement .encode := by unfold Statement; decide
theorem decode (src : BitSource) : Statement (.decode src) := by
  cases src <;> (unfold Statement; decide)
theorem checksum : Statement .checksum := by unfold Statement; decide
theorem compare (src : BitSource) : Statement (.compare src) := by
  cases src <;> (unfold Statement; decide)
theorem pnGen (dst : CodeSel) (pnsrc : PnSource) : Statement (.pnGen dst pnsrc) := by
  cases dst <;> cases pnsrc <;> (unfold Statement; decide)
theorem spread (codesel : CodeSel) : Statement (.spread codesel) := by
  cases codesel <;> (unfold Statement; decide)
theorem modulate (noise intf diag : Bool) (gsrc : GaussSource) :
    Statement (.modulate noise intf diag gsrc) := by
  cases noise <;> cases intf <;> cases diag <;> cases gsrc <;> (unfold Statement; decide)
theorem refgen (xsrc : WaveSel) : Statement (.refgen xsrc) := by
  cases xsrc <;> (unfold Statement; decide)
theorem despread (codesel : CodeSel) (xsrc : WaveSel) : Statement (.despread codesel xsrc) := by
  cases codesel <;> cases xsrc <;> (unfold Statement; decide)
theorem correlate : Statement .correlate := by unfold Statement; decide
theorem demod (codesel : CodeSel) (xsrc : WaveSel) : Statement (.demod codesel xsrc) := by
  cases codesel <;> cases xsrc <;> (unfold Statement; decide)
theorem demodWrong (xsrc : WaveSel) : Statement (.demodWrong xsrc) := by
  cases xsrc <;> (unfold Statement; decide)

end Sys2Proof.Laws.WellFormedEncoding
end

