-- ==== Sys2Proof/Tests/Slice0.lean ====
section
/-! SUPPORT. The model's own tests and, for each statement with hypotheses, a witness that meets them. The
expected results are those of spec/95_test_vectors.md (the vector's name stands at each test) or of the
encoding tables of 30_encoding.md; none is the model's own answer. -/

namespace Sys2Proof.Tests

set_option Elab.async false

open Sys2Proof Sys2Proof.Machine

/-! ### Small states -/

/-- The seven samples of SPLUS under CFG8 (95_test_vectors.md, the conventions). -/
def S : List F64 :=
  [0x3FF0000000000000, 0x3FE6A09E667F3BCD, 0x3C91A62633145C07, 0xBFE6A09E667F3BCC,
   0xBFF0000000000000, 0xBFE6A09E667F3BCE, 0xBCAA79394C9E8A0A]

/-- The phase of sample `n` under CFG8: `2π·n/8`, in binary64. -/
def phases : List F64 :=
  [0, 0x3FE921FB54442D18, 0x3FF921FB54442D18, 0x4002D97C7F3321D2, 0x400921FB54442D18,
   0x400F6A7A2955385E, 0x4012D97C7F3321D2]

/-- The reference instance, its cosine and its power of ten known where the vectors use them. -/
def prm : Params where
  caps := Config.referenceCaps
  cosPoints := phases.zip S
  pow10Points := [(0x3FF0000000000000, 0x4024000000000000), (0xC079000000000000, 0)]
  baseAddr := 0
  addrStride := 1

def idle : State :=
  State.resetWith prm Env.empty

/-- CFG8 written, CONFIG not run. -/
def inputs8 : State :=
  { idle with
    fs := 0x4020000000000000
    fc := 0x3FF0000000000000
    sf := 4
    tsym := 0x4010000000000000 }

/-- After CFG8 (V-CFG-1). -/
def cfg8 : State :=
  { inputs8.putSeq .splus S with tc := 0x3FF0000000000000, ns := 7, nss := 28, cfgValid := true }

/-- After CFG8 with the two codes of V-PN-2. -/
def coded : State :=
  (cfg8.putSeq .codeA [1, 0, 0, 0]).putSeq .codeB [0, 1, 1, 1]

/-- `coded` with the bits of V-SPR-1. -/
def bits10 : State :=
  coded.putSeq .bits [1, 0]

/-- `coded` with the chips of V-MOD-1. -/
def chips10 : State :=
  coded.putSeq .chips [1, 0]

/-- `s` with the samples negated. -/
def minus (xs : List F64) : List F64 :=
  xs.map (· ^^^ 0x8000000000000000)

/-- `coded` after V-MOD-1. -/
def sent14 : State :=
  (coded.putSeq .tx (S ++ minus S)).putSeq .ref (S ++ S)

/-- `coded` with one symbol of bit 1 in TX and its reference. -/
def sent28 : State :=
  (coded.putSeq .tx (S ++ minus S ++ minus S ++ minus S)).putSeq .ref (S ++ S ++ S ++ S)

/-- V-COR-1. -/
def despread28 : State :=
  (cfg8.putSeq .desp (S ++ S ++ S ++ S)).putSeq .ref (S ++ S ++ S ++ S)

/-- The fields of the concrete scenario. -/
def scenario : Vector Word 12 :=
  #v[20, 2, 1, 1, 1, 1, 5, 5, -5, -12, 0, -1]

/-- The bits of V-ENC-1. -/
def scenarioBits : List Word :=
  [0,0,0,1,0,1,0,0, 0,0,0,0,0,0,1,0, 0,0,0,0,0,0,0,1, 0,0,0,0,0,0,0,1, 0,0,0,0,0,0,0,1,
   0,0,0,0,0,0,0,1, 0,0,0,0,0,1,0,1, 0,0,0,0,0,1,0,1, 1,1,1,1,1,0,1,1, 1,1,1,1,0,1,0,0,
   0,0,0,0,0,0,0,0, 1,1,1,1,1,1,1,1]

def framed : State :=
  { idle with field := scenario }

/-- After V-ENC-1. -/
def encoded : State :=
  framed.putSeq .bits scenarioBits

/-- V-ENC-4: a text frame "Hi" with all fields 0. -/
def textFrame : State :=
  { idle.putSeq .text [0x48, 0x69] with frameKind := true }

/-- MODULATE's noise inputs of V-MOD-2. -/
def noisy : State :=
  { (cfg8.putSeq .chips [1]).putSeq .gnoise [0x3FF0000000000000, 0, 0, 0, 0, 0, 0] with
    snrDb := 0x4034000000000000 }

/-! ### Running one command -/

def nextOf (o : Host.Outcome State Fault Refusal) : Option State :=
  match o with
  | .next t => some t
  | _ => none

def faultOf (o : Host.Outcome State Fault Refusal) : Option Fault :=
  match o with
  | .fault f => some f
  | _ => none

/-- What `f` reads of the next state. -/
def reads {α : Type} (o : Host.Outcome State Fault Refusal) (f : State → α) : Option α :=
  (nextOf o).map f

theorem next_of_any {o : Host.Outcome State Fault Refusal} (p : State → Bool)
    (h : (nextOf o).any p = true) : ∃ t, o = .next t ∧ p t = true := by
  cases o <;> simp_all [nextOf]

theorem fault_of_faultOf {o : Host.Outcome State Fault Refusal} {f : Fault}
    (h : faultOf o = some f) : o = .fault f := by
  cases o <;> simp_all [faultOf]

/-- A region's current sequence. -/
def seq (r : Region) (t : State) : List (Option Word) :=
  (List.range (t.lenOf r)).map (t.elem r)

/-! ### Decoding, from words written out by R91 and R92 -/

theorem test_decode_nop : decode 0x0000000000000000 = .ok .nop := by decide
theorem test_decode_config : decode 0x0000000000000001 = .ok .config := by decide
theorem test_decode_pnSeed : decode 0x0000000000000002 = .ok .pnSeed := by decide
theorem test_decode_encode : decode 0x0000000000000010 = .ok .encode := by decide
theorem test_decode_decode : decode 0x0000000000000111 = .ok (.decode .result) := by decide
theorem test_decode_checksum : decode 0x0000000000000012 = .ok .checksum := by decide
theorem test_decode_compare : decode 0x0000000000000013 = .ok (.compare .bits) := by decide
theorem test_decode_pnGen : decode 0x0000000000000320 = .ok (.pnGen .codeB .entropy) := by decide
theorem test_decode_spread : decode 0x0000000000000121 = .ok (.spread .codeB) := by decide
theorem test_decode_modulate :
    decode 0x0000000000000D30 = .ok (.modulate true false true .gnoise) := by decide
theorem test_decode_modulate_intf :
    decode 0x0000000000000230 = .ok (.modulate false true false .internal) := by decide
theorem test_decode_refgen : decode 0x0000000000000231 = .ok (.refgen .rx) := by decide
theorem test_decode_despread : decode 0x0000000000000240 = .ok (.despread .codeA .rx) := by decide
theorem test_decode_correlate : decode 0x0000000000000041 = .ok .correlate := by decide
theorem test_decode_demod : decode 0x0000000000000142 = .ok (.demod .codeB .tx) := by decide
theorem test_decode_demodWrong : decode 0x0000000000000243 = .ok (.demodWrong .rx) := by decide

/-! ### WellFormed: each check refuses an ill-formed term -/

theorem test_caps_reference : Config.referenceCaps.WellFormed := by decide
theorem test_caps_bits : ¬ { Config.referenceCaps with bits := 95 }.WellFormed := by decide
theorem test_caps_text : ¬ { Config.referenceCaps with text := 2 ^ 20 + 1 }.WellFormed := by decide
theorem test_caps_code : ¬ { Config.referenceCaps with code := 0 }.WellFormed := by decide
theorem test_caps_chips : ¬ { Config.referenceCaps with chips := 0 }.WellFormed := by decide
theorem test_caps_samples : ¬ { Config.referenceCaps with samples := 0 }.WellFormed := by decide
theorem test_caps_syms : ¬ { Config.referenceCaps with syms := 95 }.WellFormed := by decide
theorem test_caps_dtext : ¬ { Config.referenceCaps with dtext := 2 ^ 20 + 1 }.WellFormed := by decide
theorem test_caps_ns : ¬ { Config.referenceCaps with ns := 0 }.WellFormed := by decide
theorem test_params_reference : Config.referenceParams.WellFormed := by decide
theorem test_params_placement : ¬ { Config.referenceParams with addrStride := 0 }.WellFormed := by decide
theorem test_word_reserved_opcode : legalWord 0x0000000000000003 = false := by decide
theorem test_word_rsv : legalWord 0x0000000000010010 = false := by decide
theorem test_word_reserved_option : legalWord 0x0000000000001030 = false := by decide
theorem test_word_legal : legalWord 0x0000000000000D30 = true := by decide

/-! ### One step of each command -/

/-- V-NOP-1. -/
theorem test_nop : reads (step (State.reset.withFetchWord 64 0x00)) (fun t => (t.statusWord, t.errcode)) =
    some (0x02, 0) := by decide +kernel
/-- V-CFG-1. -/
theorem test_config :
    reads (exec .config inputs8) (fun t => (t.tc, t.ns, t.nss, seq .splus t, t.statusWord)) =
      some (0x3FF0000000000000, 7, 28, S.map some, 0x12) := by decide +kernel
/-- V-CFG-4: the sample count of SF = 4, FS = 8.0, FC = 1.0, TSYM = 0.5 is 0. -/
theorem test_config_error :
    reads (exec .config { inputs8 with tsym := 0x3FE0000000000000 }) (fun t => (t.errcode, t.cfgValid)) =
      some (0x604, false) := by decide +kernel
/-- V-CFG-5 with FC = -0.0, and with PHASE = -0.0 besides: fcos(+0.0) = 1.0 (R111, corner cases). The table of
known cosines lists +0.0 and not -0.0. -/
theorem test_config_negative_zero :
    let s := { inputs8 with fc := 0x8000000000000000 }
    carrierSample s 6 = 0x3FF0000000000000 ∧
      carrierSample { s with phase := 0x8000000000000000 } 6 = 0x3FF0000000000000 := by decide +kernel
/-- V-SEED-1. -/
theorem test_pnSeed : reads (exec .pnSeed { idle with seed := 0x2345 }) (fun t => t.lfsr) =
    some 0x2345 := by decide +kernel
/-- V-ENC-1. -/
theorem test_encode : reads (exec .encode framed) (seq .bits) = some (scenarioBits.map some) := by
  decide +kernel
/-- V-ENC-5: a code point above 127 at index 1. -/
theorem test_encode_error :
    reads (exec .encode { idle.putSeq .text [0x48, 0xE9] with frameKind := true })
      (fun t => (t.errcode, t.lenOf .bits)) = some (0x10002, 0) := by decide +kernel
/-- V-DEC-1. -/
theorem test_decode : reads (exec (.decode .bits) encoded) (fun t => (t.dfield, t.lenOf .dtext)) =
    some (scenario, 0) := by decide +kernel
/-- V-DEC-3: a length of 100 is LengthError 1. -/
theorem test_decode_error :
    reads (exec (.decode .bits) (encoded.putLen .bits 100)) (fun t => t.errcode) = some 0x640103 := by
  decide +kernel
/-- V-CK-1. -/
theorem test_checksum : reads (exec .checksum framed) (fun t => (t.cksumSum, t.cksum)) =
    some (0x312, 0x12) := by decide +kernel
/-- V-CK-2. -/
theorem test_checksum_all_ones :
    reads (exec .checksum { idle with field := Vector.replicate 12 (-1) })
      (fun t => (t.cksumSum, t.cksum)) = some (0xBF4, 0xF4) := by decide +kernel
/-- V-CMP-2: FIELD[9] changed. -/
theorem test_compare :
    reads (exec (.compare .bits) { encoded with field := scenario.set 8 (-4) })
      (fun t => (t.mismatch, t.cmpOk, t.dfield[8])) = some (0x100, false, -5) := by decide +kernel
/-- V-CMP-1. -/
theorem test_compare_equal :
    reads (exec (.compare .bits) encoded) (fun t => (t.mismatch, t.statusWord)) = some (0, 0x0A) := by
  decide +kernel
/-- V-PN-2. -/
theorem test_pnGen :
    reads (exec (.pnGen .codeB .lfsr) { cfg8 with lfsr := 0x2ACE }) (fun t => (seq .codeB t, t.lfsr)) =
      some ([some 0, some 1, some 1, some 1], 0x22AC) := by decide +kernel
/-- V-PN-3. -/
theorem test_pnGen_error :
    reads (exec (.pnGen .codeA .lfsr) idle) (fun t => (t.errcode, t.lfsr, t.lenOf .codeA)) =
      some (0x804, 0xACE1, 0) := by decide +kernel
/-- V-SPR-1. -/
theorem test_spread : reads (exec (.spread .codeA) bits10) (seq .chips) =
    some ([1, 0, 0, 0, 0, 1, 1, 1].map some) := by decide +kernel
/-- V-SPR-2: a code of length 3. -/
theorem test_spread_error :
    reads (exec (.spread .codeA) (bits10.putLen .codeA 3)) (fun t => t.errcode) = some 0x30303 := by
  decide +kernel
/-- V-MOD-1. -/
theorem test_modulate :
    reads (exec (.modulate false false false .internal) chips10) (fun t => (seq .tx t, seq .ref t)) =
      some ((S ++ minus S).map some, (S ++ S).map some) := by decide +kernel
/-- V-MOD-2. -/
theorem test_modulate_noise :
    reads (exec (.modulate true false true .gnoise) noisy)
      (fun t => (seq .tx t, t.diagNormSig, t.diagNormNoise, t.diagScale)) =
      some ((0x3FF2FE4A9B573987 :: S.tail).map some, 0x3FFDEEEA11683F49, 0x3FC7F254DAB9CC3A,
        0x3FC7F254DAB9CC3A) := by decide +kernel
/-- V-REF-1. -/
theorem test_refgen :
    reads (exec (.refgen .rx) (cfg8.putSeq .rx (List.replicate 14 0))) (seq .ref) =
      some ((S ++ S).map some) := by decide +kernel
/-- V-DSP-1. -/
theorem test_despread : reads (exec (.despread .codeA .tx) sent14) (seq .desp) =
    some ((S ++ S).map some) := by decide +kernel
/-- V-COR-1. -/
theorem test_correlate :
    reads (exec .correlate despread28) (fun t => (seq .corr t, seq .result t)) =
      some ([some 0x402C000000000000], [some 1]) := by decide +kernel
/-- V-COR-2: a tie of negative zeros gives -1. -/
theorem test_correlate_tie :
    reads (exec .correlate (despread28.putSeq .desp (List.replicate 28 0x8000000000000000)))
      (fun t => (seq .corr t, seq .result t)) = some ([some 0], [some 0]) := by decide +kernel
/-- R204 on one symbol. -/
theorem test_demod : reads (exec (.demod .codeA .tx) sent28) (fun t => (seq .corr t, seq .result t)) =
    some ([some 0x402C000000000000], [some 1]) := by decide +kernel
/-- V-DEM-1: LengthError 5, DESP unchanged. -/
theorem test_demod_error :
    reads (exec (.demod .codeA .tx) sent14) (fun t => (t.errcode, t.lenOf .desp)) =
      some (0xE0503, 0) := by decide +kernel
/-- V-DW-1 on one symbol: the negated code inverts it. -/
theorem test_demodWrong :
    reads (exec (.demodWrong .tx) sent28) (fun t => (seq .corr t, seq .result t)) =
      some ([some 0xC02C000000000000], [some 0]) := by decide +kernel

/-! ### Host transactions -/

/-- V-SEED-1. -/
theorem test_seed_write :
    (reads (busWrite 0x00000F 0 idle) (fun t => t.seed), reads (busWrite 0x00000F 0x12345 idle) (fun t => t.seed)) =
      (some 1, some 0x2345) := by decide +kernel
/-- V-FLT-1. -/
theorem test_bus_faults :
    [busRead 0x100000 idle, busWrite 0x000000 0 idle, busRead 0x000005 idle, busWrite 0x000021 1025 idle,
      busWrite 0xF00000 0 idle, busRead 0x100400 idle, busRead 0x000008 (issue 0x1 idle)].map faultOf =
    [some .uninitRead, some .hostBusError, some .hostBusError, some .hostBusError, some .hostBusError,
      some .hostBusError, some .busyHazard] := by decide +kernel
/-- V-FLT-1: STATUS reads 0x01 while the engine has not stepped. -/
theorem test_poll : reads (busRead 0x000002 (issue 0x1 idle)) (fun t => t.env.rdata) = some (some 0x01) := by
  decide +kernel
/-- R78: a block placed at byte address 0x1000 answers ID there, nothing below it or between two words. -/
theorem test_host_address :
    let placed := { idle with params := { prm with baseAddr := 0x1000, addrStride := 8 } }
    reads (hostRead 0x1000 placed) (fun t => t.env.rdata) = some (some 0x5350554300070001) ∧
    reads (hostWrite 0x1040 9 placed) (fun t => t.fs) = some 9 ∧
    reads (hostWrite 0xFF8 9 placed) (fun t => t.fs) = some 0 ∧
    faultOf (hostRead 0x1004 placed) = some .hostBusError := by decide +kernel
/-- V-IRQ-1: DONE cleared, the interrupt falls. -/
theorem test_irq_clear :
    reads (busWrite 0x000002 0x2 { completeOk idle with irqEn := true }) (fun t => (t.statusWord, t.irq)) =
      some (0, false) := by decide +kernel

/-! ### The invariant on a concrete state -/

def regions : List Region :=
  [.bits, .text, .codeA, .codeB, .chips, .tx, .ref, .intf, .gnoise, .rx, .desp, .corr, .result,
   .dtext, .splus]

theorem mem_regions (r : Region) : r ∈ regions := by
  cases r <;> decide

theorem bufRead_mem (b : Buffer) (k : Nat) (w : Word) (h : bufRead b k = some w) : (k, w) ∈ b := by
  induction b with
  | nil => simp [bufRead] at h
  | cons c rest ih =>
    obtain ⟨j, v⟩ := c
    simp only [bufRead] at h
    split at h
    · simp_all
    · exact List.mem_cons_of_mem _ (ih h)

/-- `State.Inv` of a state with no pending command and no error, as a check. -/
def invCheck (s : State) : Bool :=
  decide s.params.WellFormed && s.mem.wf &&
    (regions.all fun r =>
      (s.mem.buffer r).all (fun c => decide (c.1 < s.cap r) && decide (c.2.toNat < 2 ^ r.width)) &&
        decide (s.lenOf r ≤ s.cap r)) &&
    decide (s.lfsr ≠ 0) && decide (s.seed ≠ 0) && !s.busy && decide (s.errcode = 0) &&
    decide (∀ k : Fin 12, -128 ≤ s.dfield[k].toInt ∧ s.dfield[k].toInt ≤ 127) &&
    decide (s.cksumSum.toNat ≤ 3060 ∧ s.cksum.toNat = s.cksumSum.toNat % 256) &&
    decide (s.ns.toNat = s.lenOf .splus) &&
    ((List.range (s.lenOf .splus)).all fun k => (s.elem .splus k).any isFinite) &&
    decide (s.cfgValid = true →
      1 ≤ s.sf.toInt ∧ s.sf.toInt ≤ s.cap .codeA ∧ 1 ≤ s.ns.toNat ∧
        (s.nss.toNat : Int) = s.ns.toNat * s.sf.toInt ∧
        isZero (Machine.norm (s.samples .splus s.ns.toNat)) = false)

theorem inv_of_check (s : State) (h : invCheck s = true) : s.Inv := by
  simp only [invCheck, Bool.and_eq_true, decide_eq_true_eq, List.all_eq_true, Bool.not_eq_true',
    List.mem_range, Option.any_eq_true] at h
  obtain ⟨⟨⟨⟨⟨⟨⟨⟨⟨⟨⟨h1, h2⟩, h3⟩, h4⟩, h5⟩, h6⟩, h7⟩, h8⟩, h9⟩, h10⟩, h11⟩, h12⟩ := h
  exact {
    caps := h1.1
    placement := h1.2
    canonical := h2
    elements := fun r k w hk => (h3 r (mem_regions r)).1 (k, w) (bufRead_mem _ _ _ hk)
    lengths := fun r => (h3 r (mem_regions r)).2
    lfsr := h4
    seed := h5
    pending := fun hb => by simp [h6] at hb
    errcode := .inl h7
    dfields := h8
    checksum := h9
    splus := ⟨h10, fun k hk => h11 k hk⟩
    config := h12 }

/-! ### Witnesses: states that meet the hypotheses of the statements -/

theorem witness_EachLegalWordSpellsOneMnemonic :
    decode 0x0000000000000D30 = .ok (.modulate true false true .gnoise) ∧
      decode 0x0000000000001030 = .error .reservedOption := by decide

/-- V-ILL-1: reserved opcodes, one of them with RSV not 0. -/
theorem witness_IllegalWordsCompleteWithIllegalCommand_opcode :
    (issue 0x03 idle).busy = true ∧ (issue 0x03 idle).env.agenda = [] ∧
    (∀ r ∈ opcodeRows, r.pattern.toNat ≠ (issue 0x03 idle).cmd.toNat % 256) ∧
    (∀ r ∈ opcodeRows, r.pattern.toNat ≠ (issue 0xFF idle).cmd.toNat % 256) ∧
    ∀ r ∈ opcodeRows, r.pattern.toNat ≠ (issue 0x10003 idle).cmd.toNat % 256 :=
  ⟨rfl, rfl, by decide, by decide, by decide⟩

/-- V-ILL-1: ENCODE with RSV bit 16, with a reserved option besides, and with RSV bit 63. -/
theorem witness_IllegalWordsCompleteWithIllegalCommand_rsv :
    let r : OpcodeRow := ⟨"ENCODE", 0xFFFFFFFFFFFFFFFF, 0x10⟩
    r ∈ opcodeRows ∧
    (r.pattern.toNat = 0x10010 % 256 ∧ 0x10010 / 65536 ≠ 0) ∧
    (r.pattern.toNat = 0x11010 % 256 ∧ 0x11010 / 65536 ≠ 0) ∧
    (r.pattern.toNat = 0x8000000000000010 % 256 ∧ 0x8000000000000010 / 65536 ≠ 0) := by decide

/-- V-ILL-1: MODULATE with OPT bit 4, DEMOD_WRONG with OPT bit 0. -/
theorem witness_IllegalWordsCompleteWithIllegalCommand_option :
    let r : OpcodeRow := ⟨"MODULATE", 0xFFFFFFFFFFFFF0FF, 0x30⟩
    let q : OpcodeRow := ⟨"DEMOD_WRONG", 0xFFFFFFFFFFFFFDFF, 0x43⟩
    r ∈ opcodeRows ∧ q ∈ opcodeRows ∧
    (r.pattern.toNat = 0x1030 % 256 ∧ 0x1030 / 65536 = 0 ∧ (0x1030 : Word) &&& r.mask ≠ r.pattern) ∧
    (q.pattern.toNat = 0x143 % 256 ∧ 0x143 / 65536 = 0 ∧ (0x143 : Word) &&& q.mask ≠ q.pattern) := by
  decide

theorem test_illegal_words :
    [0x03, 0xFF, 0x10003, 0x10010, 0x11010, 0x1010, 0x143, 0x1030, 0x100].map
        (fun w => reads (step (State.reset.withFetchWord 64 w)) (fun t => (t.errcode, t.statusWord))) =
      [0x30105, 0xFF0105, 0x30105, 0x100305, 0x10100305, 0x10100205, 0x1430205, 0x10300205,
        0x1000205].map (fun e : Word => some (e, 0x06)) := by decide +kernel

theorem witness_StepRunsTheLatchedCommand :
    let s := issue 0x21 idle
    let s1 := s.pushInput .engine
    (s.busy = true ∧ decode s.cmd = .ok (.spread .codeA) ∧ s.env.agenda = []) ∧
    (s1.busy = true ∧ decode s1.cmd = .ok (.spread .codeA) ∧ s1.env.agenda = [.engine]) ∧
    decodeTableWord 64 0x21 = some (.spread .codeA) := by decide +kernel

theorem witness_StepPerformsTheOldestInput :
    (idle.pushInput .reset).env.agenda = [.reset] ∧ (idle.busy = false ∧ idle.env.agenda = []) ∧
      (idle.pushInput .engine).busy = false ∧ (idle.pushInput .engine).env.agenda = [.engine] := by
  decide +kernel

/-- A block at byte address 0x1000: its last word, the addresses beside its range, one between two words. -/
theorem witness_StepPerformsTheOldestInput_placement :
    let p := { prm with baseAddr := 0x1000, addrStride := 8 }
    1 ≤ p.addrStride ∧ 0xFFF < p.baseAddr ∧ p.baseAddr + p.addrStride * 2 ^ 24 ≤ 0x8001000 ∧
    (p.baseAddr ≤ 0x1004 ∧ 0x1004 < p.baseAddr + p.addrStride * 2 ^ 24 ∧
      ∀ a : BusAddr, 0x1004 ≠ p.baseAddr + p.addrStride * a.toNat) := by
  refine ⟨by decide, by decide, by decide, by decide, by decide, fun a => ?_⟩
  simp only
  omega

theorem witness_EngineExecutesAfterPolls :
    let s := { issue 0x00 idle with
      env := { Env.empty with agenda := [.hostRead 0x000002, .hostRead 0x000000, .hostRead 0x000002] } }
    s.busy = true ∧ onlyPolls s = true ∧ decode s.cmd = .ok .nop := by decide +kernel

theorem witness_ErrorsChangeOnlyCompletionState :
    ∃ t, exec .config idle = .next t ∧ t.err = true :=
  next_of_any (fun t => t.err) (by decide +kernel)

theorem witness_OnlyDrawsReachTheEnvironment :
    (∃ t, exec .nop idle = .next t ∧ (∀ dst, Instr.nop ≠ .pnGen dst .entropy) ∧
      ∀ intf diag, Instr.nop ≠ .modulate true intf diag .internal) ∧
    { idle with env := { Env.empty with gaussIn := [1, 2, 3] } }.env.gaussIn = [1, 2] ++ [3] ∧
    { idle with env := { Env.empty with entropyIn := [true, false] } }.env.entropyIn = [true] ++ [false] :=
  ⟨⟨_, rfl, by simp, by simp⟩, rfl, rfl⟩

/-- V-FLT-1: a text frame whose text is unwritten. -/
theorem witness_CommandsFaultOnlyOnUnwrittenElements :
    let s := { idle.putLen .text 1 with frameKind := true }
    s.mem.wf = true ∧ exec .encode s = .fault .uninitRead :=
  ⟨by decide +kernel, fault_of_faultOf (by decide +kernel)⟩

theorem witness_FlagsHaveOneWriter :
    (∃ t, exec (.compare .bits) encoded = .next t ∧ t.err = false ∧ t.cmpOk ≠ encoded.cmpOk) ∧
    ∃ t, exec .config inputs8 = .next t ∧ t.cfgValid ≠ inputs8.cfgValid := by
  constructor
  · obtain ⟨t, h, h2⟩ := next_of_any (fun t => !t.err && t.cmpOk != encoded.cmpOk)
      (show (nextOf (exec (.compare .bits) encoded)).any _ = true by decide +kernel)
    exact ⟨t, h, by simpa using h2⟩
  · obtain ⟨t, h, h2⟩ := next_of_any (fun t => t.cfgValid != inputs8.cfgValid)
      (show (nextOf (exec .config inputs8)).any _ = true by decide +kernel)
    exact ⟨t, h, by simpa using h2⟩

theorem witness_RegistersHaveTheirWriters :
    ∃ t, exec .nop idle = .next t ∧ Instr.nop ≠ .config ∧ Instr.nop ≠ .pnSeed ∧
      (∀ dst, Instr.nop ≠ .pnGen dst .lfsr) ∧ (∀ src, Instr.nop ≠ .decode src) ∧
      (∀ src, Instr.nop ≠ .compare src) ∧ Instr.nop ≠ .checksum ∧
      ∀ noise intf gsrc, Instr.nop ≠ .modulate noise intf true gsrc :=
  ⟨_, rfl, by simp, by simp, by simp, by simp, by simp, by simp, by simp⟩

theorem witness_CommandsWriteOnlyTheirRegions :
    ∃ t, exec (.spread .codeA) bits10 = .next t ∧ t.err = false := by
  obtain ⟨t, h, h2⟩ := next_of_any (fun t => !t.err)
    (show (nextOf (exec (.spread .codeA) bits10)).any _ = true by decide +kernel)
  exact ⟨t, h, by simpa using h2⟩

/-- V-CFG-4, every check of CONFIG at an edge. -/
theorem witness_FirstFailingCheckIsReported_config :
    [idle, { idle with sf := -1 }, { idle with sf := 65 }, { idle with sf := 4 },
      { idle with sf := 4, fs := 0x7FF8000000000000 },
      { inputs8 with fc := 0xBFF0000000000000 },
      { inputs8 with fs := 0x4000000000000000 },
      { inputs8 with tsym := 0 },
      { inputs8 with tsym := 0x7FEFFFFFFFFFFFFF },
      { inputs8 with tsym := 0x3FE0000000000000 },
      { inputs8 with sf := 1, tsym := 0x4050000000000000 },
      { inputs8 with amp := 0 }].map (fun s => firstFailing (errorChecks .config s)) =
    [some (.config 1), some (.config 1), some (.capacity .codeA 65), some (.config 2),
      some (.config 2), some (.config 3), some (.config 4), some (.config 5), some (.config 6),
      some (.config 6), some (.capacity .splus 511), some (.config 7)] := by decide +kernel

/-- V-ENC-3, V-CK-2, V-DEC-3, V-DEC-5. -/
theorem witness_FirstFailingCheckIsReported_codec :
    firstFailing (errorChecks .encode { idle with field := (Vector.replicate 12 0).set 2 128 }) =
      some (.range 3) ∧
    firstFailing (errorChecks .encode { idle with field := (Vector.replicate 12 0).set 11 (-129) }) =
      some (.range 12) ∧
    firstFailing (errorChecks .checksum { idle with field := (Vector.replicate 12 0).set 0 128 }) =
      some (.range 1) ∧
    firstFailing (errorChecks (.decode .bits) (idle.putLen .bits 100)) = some (.length 1 100) ∧
    firstFailing (errorChecks (.decode .bits) (idle.putLen .bits 88)) = some (.length 2 88) ∧
    firstFailing (errorChecks (.compare .bits) idle) = some (.length 2 0) ∧
    firstFailing (errorChecks (.compare .result) (idle.putLen .result 616)) =
      some (.capacity .dtext 65) := by decide +kernel

/-- V-PN-3, V-SPR-2, V-SPR-4, V-MOD-4, V-MOD-5, V-REF-1, V-DSP-2, V-COR-3. -/
theorem witness_FirstFailingCheckIsReported_link :
    firstFailing (errorChecks (.pnGen .codeA .lfsr) idle) = some (.config 8) ∧
    firstFailing (errorChecks (.spread .codeA) (bits10.putLen .codeA 3)) = some (.length 3 3) ∧
    firstFailing (errorChecks (.spread .codeA)
      ({ coded with sf := 8 }.putLen .codeA 8 |>.putLen .bits 1024)) = some (.capacity .chips 8192) ∧
    firstFailing (errorChecks (.modulate false false false .internal)
      ({ cfg8 with ns := 99 }.putLen .chips 4096)) = some (.capacity .tx 405504) ∧
    firstFailing (errorChecks (.modulate false true false .internal) (chips10.putLen .intf 13)) =
      some (.length 7 13) ∧
    firstFailing (errorChecks (.modulate true false false .gnoise) chips10) = some (.length 8 0) ∧
    firstFailing (errorChecks (.refgen .rx) (cfg8.putLen .rx 10)) = some (.length 4 10) ∧
    firstFailing (errorChecks (.despread .codeA .tx) (coded.putLen .codeA 5 |>.putLen .tx 10)) =
      some (.length 3 5) ∧
    firstFailing (errorChecks (.despread .codeA .tx) (coded.putLen .tx 10)) = some (.length 4 10) ∧
    firstFailing (errorChecks .correlate (cfg8.putLen .desp 14)) = some (.length 5 14) ∧
    firstFailing (errorChecks .correlate (cfg8.putLen .desp 28 |>.putLen .ref 14)) =
      some (.length 6 14) ∧
    firstFailing (errorChecks (.demod .codeA .tx)
      ({ coded with ns := 1, nss := 4 }.putLen .tx 4100 |>.putLen .ref 4100)) =
        some (.capacity .result 1025) ∧
    firstFailing (errorChecks (.demodWrong .tx) sent14) = some (.length 5 14) := by decide +kernel

/-- V-ENC-5 and V-ENC-7. -/
theorem witness_EncodeReportsTextErrors :
    let s := { idle.putSeq .text [0x48, 0x80] with frameKind := true }
    let u := { textFrame with params := { prm with caps := { prm.caps with bits := 111 } } }
    (FieldsInRange s ∧ 1 < textCount s ∧ s.elem .text 1 = some 0x80 ∧ 127 < elemCodePoint 0x80 ∧
      Written s .text 1 ∧ ∀ k, k < 1 → s.codePointAt .text k ≤ 127) ∧
    (FieldsInRange u ∧ Written u .text (textCount u) ∧
      (∀ k, k < textCount u → u.codePointAt .text k ≤ 127) ∧
      u.cap .bits < 96 + 8 * textCount u) := by decide +kernel

/-- V-MOD-4: SNR_DB a NaN, no chip, a silent draw, and an infinite scale. -/
def badSnr : State :=
  { noisy with snrDb := 0x7FF8000000000000 }

def noChips : State :=
  (noisy.putLen .chips 0).putLen .gnoise 0

def silent : State :=
  noisy.putSeq .gnoise (List.replicate 7 0)

def loud : State :=
  { noisy with snrDb := 0xC0BF400000000000 }

theorem witness_ModulateReportsNoiseErrors_9 :
    ModulateReady false badSnr ∧ NoiseReady .gnoise badSnr ∧ isFinite badSnr.snrDb = false := by
  decide +kernel

theorem witness_ModulateReportsNoiseErrors_10 :
    ModulateReady false noChips ∧ NoiseReady .gnoise noChips ∧ isFinite noChips.snrDb = true ∧
      isZero (Machine.norm (cleanWave noChips)) = true := by decide +kernel

theorem witness_ModulateReportsNoiseErrors_11 :
    ModulateReady false silent ∧ NoiseReady .gnoise silent ∧ isFinite silent.snrDb = true ∧
      isFinite (Machine.norm (cleanWave silent)) = true ∧
      isZero (Machine.norm (cleanWave silent)) = false ∧
      isZero (Machine.norm (noiseOf .gnoise silent)) = true := by decide +kernel

theorem witness_ModulateReportsNoiseErrors_12 :
    ModulateReady false loud ∧ NoiseReady .gnoise loud ∧ isFinite loud.snrDb = true ∧
      isFinite (Machine.norm (cleanWave loud)) = true ∧
      isZero (Machine.norm (cleanWave loud)) = false ∧
      isFinite (Machine.norm (noiseOf .gnoise loud)) = true ∧
      isZero (Machine.norm (noiseOf .gnoise loud)) = false ∧
      isFinite (scaleOf .gnoise loud) = false := by decide +kernel

theorem witness_NopOnlyCompletes : idle.env.agenda = [] := rfl

theorem witness_ConfigDerivesTheCarrier :
    ConfigReady inputs8 ∧
      ConfigReady { inputs8 with fc := 0x8000000000000000, phase := 0x8000000000000000 } := by
  decide +kernel

theorem witness_EncodeLaysOutTheFrame : EncodeReady framed ∧ EncodeReady textFrame := by
  decide +kernel

theorem witness_DecodeReadsTheFrame :
    DecodeReady .bits encoded ∧ DecodeReady .result (framed.putSeq .result scenarioBits) := by
  decide +kernel

theorem witness_CompareMarksTheDifferences :
    CompareReady .bits encoded ∧ CompareReady .bits { encoded with frameKind := true } := by
  decide +kernel

theorem witness_ChecksumSumsTheFieldBytes :
    FieldsInRange framed ∧
    (let s := { idle with field := (Vector.replicate 12 0).set 11 128 }
     (s.field[(11 : Fin 12)].toInt < -128 ∨ 127 < s.field[(11 : Fin 12)].toInt) ∧
      ∀ j : Fin 12, j < 11 → -128 ≤ s.field[j].toInt ∧ s.field[j].toInt ≤ 127) ∧
    (let s := { idle with field := (Vector.replicate 12 0).set 0 (-129) }
     s.field[(0 : Fin 12)].toInt < -128) := by decide +kernel

theorem witness_ChecksumDependsOnFieldsAlone :
    framed.field = encoded.field ∧ ∃ t, exec .checksum framed = .next t ∧ t.err = false := by
  refine ⟨rfl, ?_⟩
  obtain ⟨t, h, h2⟩ := next_of_any (fun t => !t.err)
    (show (nextOf (exec .checksum framed)).any _ = true by decide +kernel)
  exact ⟨t, h, by simpa using h2⟩

theorem witness_CodecRoundTrip :
    textFrame.mem.wf = true ∧ EncodeReady textFrame ∧ textCount textFrame ≤ textFrame.cap .dtext ∧
      textCount textFrame = 2 := by decide +kernel

theorem witness_PnSeedLoadsTheGenerator : idle.seed ≠ 0 ∧ ∃ t, exec .pnSeed idle = .next t :=
  ⟨by decide, _, rfl⟩

theorem witness_GeneratorStepAndPeriod : (0xACE1 : BitVec 16) ≠ 0 := by decide

theorem witness_PnGenWritesACode :
    cfg8.cfgValid = true ∧
      (let s := { cfg8 with env := { Env.empty with entropyIn := [true, true, false, true, false] } }
       s.env.entropyIn = [true, true, false, true] ++ [false] ∧
        [true, true, false, true].length = s.sf.toInt.toNat) := by decide +kernel

theorem witness_SpreadMultipliesBitsByCode :
    SpreadReady .codeA bits10 ∧ SpreadReady .codeB bits10 ∧ SpreadReady .codeA (cfg8.putLen .codeA 4) := by
  decide +kernel

theorem witness_SpreadingTwiceGivesTheSymbol :
    bits10.mem.wf = true ∧ ∃ t, exec (.spread .codeA) bits10 = .next t ∧ t.err = false ∧
      7 < t.lenOf .chips := by
  refine ⟨by decide +kernel, ?_⟩
  obtain ⟨t, h, h2⟩ := next_of_any (fun t => !t.err && decide (7 < t.lenOf .chips))
    (show (nextOf (exec (.spread .codeA) bits10)).any _ = true by decide +kernel)
  exact ⟨t, h, by simpa using h2⟩

theorem witness_ModulateCleanWaveform :
    ModulateReady false chips10 ∧ ModulateReady true (chips10.putSeq .intf (List.replicate 14 0)) ∧
      ModulateReady false cfg8 := by decide +kernel

theorem witness_ModulateNoisyWaveform :
    (ModulateReady false noisy ∧ NoiseReady .gnoise noisy ∧ NoisePasses .gnoise noisy) ∧
    (let s := { noisy with env := { Env.empty with gaussIn := 0x3FF0000000000000 :: List.replicate 6 0 } }
     ModulateReady false s ∧ NoiseReady .internal s ∧ NoisePasses .internal s) := by decide +kernel

/-- Two states that differ in a code and agree on what MODULATE reads. -/
theorem witness_ModulateDependsOnItsInputsAlone :
    let s := noisy
    let s' := noisy.putSeq .codeA [1, 1, 0, 0]
    s.mem.wf = true ∧ s'.mem.wf = true ∧
    (∃ t, exec (.modulate true false true .gnoise) s = .next t ∧ t.err = false) ∧
    (∃ t', exec (.modulate true false true .gnoise) s' = .next t' ∧ t'.err = false) ∧
    s.lenOf .chips = s'.lenOf .chips ∧ s.ns = s'.ns ∧
    (∀ k, k < s.lenOf .chips → s.elem .chips k = s'.elem .chips k) ∧
    (∀ k, k < s.ns.toNat → s.elem .splus k = s'.elem .splus k) ∧
    s.snrDb = s'.snrDb ∧
    fpow10 s.params (fdiv s.snrDb fTwenty) = fpow10 s'.params (fdiv s'.snrDb fTwenty) ∧
    ∀ k, k < modulateLength s → s.elem .gnoise k = s'.elem .gnoise k := by
  have ok : ∀ s : State, (nextOf (exec (.modulate true false true .gnoise) s)).any (fun t => !t.err) = true →
      ∃ t, exec (.modulate true false true .gnoise) s = .next t ∧ t.err = false := by
    intro s h
    obtain ⟨t, h1, h2⟩ := next_of_any _ h
    exact ⟨t, h1, by simpa using h2⟩
  exact ⟨by decide +kernel, by decide +kernel, ok _ (by decide +kernel), ok _ (by decide +kernel), rfl, rfl,
    by decide +kernel, by decide +kernel, rfl, rfl, by decide +kernel⟩

theorem witness_RefgenTilesTheCarrier :
    RefgenReady .tx sent14 ∧ RefgenReady .rx (cfg8.putLen .rx 14) ∧
      RefgenReady .rx { idle with cfgValid := true } := by decide +kernel

theorem witness_DespreadRemovesTheCode :
    DespreadReady .codeA .tx sent14 ∧ DespreadReady .codeB .rx (coded.putSeq .rx S) := by
  decide +kernel

theorem witness_CorrelateSumsEachSymbol :
    despread28.mem.wf = true ∧ despread28.cfgValid = true ∧
      CorrelateReady (despread28.lenOf .desp) despread28 ∧
      Written despread28 .desp (despread28.lenOf .desp) := by decide +kernel

theorem witness_DecisionEdges :
    isNaN 0x7FF0000000000001 = true ∧ isFinite 0x7FEFFFFFFFFFFFFF = true ∧
      isFinite 0x0000000000000001 = true := by decide +kernel

theorem witness_DemodRecoversDecisions :
    DespreadReady .codeB .tx sent28 ∧ CorrelateReady (sent28.lenOf (waveRegion .tx)) sent28 := by
  decide +kernel

theorem witness_DemodIsDespreadThenCorrelate :
    ∃ u, exec (.despread .codeA .tx) sent28 = .next u ∧ u.err = false ∧
      ∃ t, exec .correlate u = .next t ∧ t.err = false := by
  obtain ⟨u, h, h2⟩ := next_of_any
    (fun u => !u.err && (nextOf (exec .correlate u)).any fun t => !t.err)
    (show (nextOf (exec (.despread .codeA .tx) sent28)).any _ = true by decide +kernel)
  rw [Bool.and_eq_true] at h2
  obtain ⟨t, h3, h4⟩ := next_of_any _ h2.2
  exact ⟨u, h, by simpa using h2.1, t, h3, by simpa using h4⟩

theorem test_inv_bits10 : bits10.Inv := inv_of_check bits10 (by decide +kernel)

theorem witness_NoiselessRoundTrip :
    bits10.Inv ∧ SpreadReady .codeA bits10 ∧
      bits10.lenOf .bits * bits10.lenOf (codeRegion .codeA) * bits10.ns.toNat ≤ bits10.cap .tx ∧
      bits10.lenOf .bits ≤ bits10.cap .result ∧ bits10.lenOf .bits = 2 :=
  ⟨test_inv_bits10, by decide +kernel, by decide +kernel, by decide +kernel, rfl⟩

theorem witness_NoiselessLinkRecoversTheFrame :
    let s := { coded.putSeq .text [0x48, 0x69] with field := scenario, frameKind := true }
    s.Inv ∧ EncodeReady s ∧ s.cfgValid = true ∧ (s.lenOf .codeA : Int) = s.sf.toInt ∧
      Written s .codeA (s.lenOf .codeA) ∧
      (96 + 8 * textCount s) * s.lenOf .codeA ≤ s.cap .chips ∧
      (96 + 8 * textCount s) * s.lenOf .codeA * s.ns.toNat ≤ s.cap .tx ∧
      96 + 8 * textCount s ≤ s.cap .result ∧ textCount s ≤ s.cap .dtext :=
  ⟨inv_of_check _ (by decide +kernel), by decide +kernel⟩

theorem witness_NegatedCodeInvertsEveryBit :
    bits10.Inv ∧ SpreadReady .codeA bits10 ∧ (bits10.lenOf .codeB : Int) = bits10.sf.toInt ∧
      Written bits10 .codeB (bits10.lenOf .codeB) ∧
      (∀ k, k < bits10.lenOf .codeA → bits10.bitAt .codeB k = !bits10.bitAt .codeA k) ∧
      bits10.lenOf .bits * bits10.lenOf .codeA * bits10.ns.toNat ≤ bits10.cap .tx ∧
      bits10.lenOf .bits ≤ bits10.cap .result :=
  ⟨test_inv_bits10, by decide +kernel⟩

/-- V-CDMA-1: orthogonal codes, messages [1, 0] and [1, 1], the second one's waveform in INTF. -/
def twoSenders : State :=
  (((cfg8.putSeq .codeA [1, 1, 0, 0]).putSeq .codeB [1, 0, 1, 0]).putSeq .bits [1, 0]).putSeq .intf
    (S ++ minus S ++ S ++ minus S ++ (S ++ minus S ++ S ++ minus S))

theorem witness_TwoTransmittersSuperpose :
    let s := twoSenders
    let β := fun _ : Nat => true
    s.Inv ∧ SpreadReady .codeA s ∧ Written s .codeA (s.lenOf .codeA) ∧
      (s.lenOf .codeB : Int) = s.sf.toInt ∧ Written s .codeB (s.lenOf .codeB) ∧
      s.lenOf .bits * s.lenOf .codeA * s.ns.toNat ≤ s.cap .tx ∧ s.lenOf .bits ≤ s.cap .result ∧
      s.lenOf .intf = s.lenOf .bits * s.lenOf .codeA * s.ns.toNat ∧
      (∀ k, k < s.lenOf .intf →
        s.elem .intf k = some (signed
          (bipMul (β (k / s.ns.toNat / s.lenOf .codeB))
            (s.bitAt .codeB (k / s.ns.toNat % s.lenOf .codeB)))
          (s.sampleAt .splus (k % s.ns.toNat)))) ∧
      (∃ k, k < s.lenOf .codeA ∧
        bipMul (s.bitAt .codeA k) (s.bitAt .codeB k) = bipMul (s.bitAt .bits 1) (β 1)) :=
  ⟨inv_of_check _ (by decide +kernel), by decide +kernel, by decide +kernel, by decide +kernel,
    by decide +kernel, by decide +kernel, by decide +kernel, by decide +kernel, by decide +kernel,
    by decide +kernel⟩

/-- With equal codes every product is +1, so a symbol where the messages differ meets the other clause. -/
theorem witness_TwoTransmittersSuperpose_lost :
    let s := twoSenders.putSeq .codeB [1, 1, 0, 0]
    ∀ k, k < s.lenOf .codeA →
      bipMul (s.bitAt .codeA k) (s.bitAt .codeB k) ≠ bipMul (s.bitAt .bits 1) true := by decide +kernel

theorem witness_BusyAllowsOnlyStatusAndId :
    (issue 0x1 idle).busy = true ∧ (0x000008 : BusAddr) ≠ 0x000002 ∧ (0x000008 : BusAddr) ≠ 0x000000 := by
  decide

theorem witness_ReadsHaveNoSideEffect : ∃ t, busRead 0x00000F idle = .next t :=
  ⟨_, rfl⟩

theorem witness_RegisterMapReads :
    idle.busy = false ∧ (0x02F, (0 : Word)) ∈ registerReads idle ∧
      (0x03F, (256 : Word)) ∈ registerReads idle ∧ (0x05C, (0 : Word)) ∈ registerReads idle := by
  decide +kernel

/-- V-FLT-1. -/
theorem witness_BusErrors :
    idle.busy = false ∧ (∀ j ∈ [0x005, 0x014, 0x020, 0x030, 0x04D, 0x073, 2 ^ 20 - 1],
      j ∉ (registerReads idle).map Prod.fst) ∧
    0x000 ∈ readOnlyIndices ∧ idle.cap .bits < (1025 : Word).toNat ∧ idle.cap .bits ≤ 1024 := by
  decide +kernel

theorem witness_BufferWriteThenRead :
    idle.busy = false ∧ 1023 < 2 ^ 20 ∧ 1023 < idle.cap .bits ∧ idle.elem .bits 1023 = none ∧
      Region.bits ≠ .splus ∧ cfg8.busy = false ∧ 6 < cfg8.cap .splus ∧
      cfg8.elem .splus 6 = some 0xBCAA79394C9E8A0A := by decide +kernel

theorem witness_RegisterWrites :
    idle.busy = false ∧ Region.bits ≠ .splus ∧ (1024 : Word).toNat ≤ idle.cap .bits := by
  decide +kernel

theorem witness_CmdWriteIssues : idle.busy = false := rfl

theorem witness_StatusWriteAcknowledges :
    (takeError (.config 1) idle).busy = false ∧ (takeError (.config 1) idle).err = true := by decide

theorem witness_InterruptLevel :
    (∃ t, exec .nop idle = .next t) ∧
    (∃ t, busWrite 0x000002 0x2 idle = .next t ∧ (0x2 : Word).getLsbD 1 = true) ∧
    (∃ t, busWrite 0x000001 0x0 idle = .next t ∧ (0x0 : Word).getLsbD 0 = false) ∧
    (∃ t, busWrite 0x000004 0x0 idle = .next t) ∧ ∃ t, perform .reset idle = .next t :=
  ⟨⟨_, rfl⟩, ⟨_, rfl, by decide⟩, ⟨_, rfl, by decide⟩, ⟨_, rfl⟩, _, rfl⟩

theorem witness_StepKeepsTheInvariant :
    bits10.Inv ∧ ∃ t, step (bits10.pushInput (.hostWrite 0x000004 0x21)) = .next t :=
  ⟨test_inv_bits10, _, rfl⟩

theorem witness_CanonicalMemoriesAreEqual : bits10.mem.wf = true := by decide +kernel

theorem witness_RoundingIsNearestEven :
    0 < 2 ∧ roundMag 5 2 < infBits ∧ 3 < infBits ∧ roundMag (2 ^ 53 * 2 + 2) 2 < infBits := by
  decide +kernel

theorem witness_IntegersConvertExactly : (-(2 ^ 53) : Int).natAbs ≤ 2 ^ 53 := by decide

theorem witness_NegationIsExact : isFinite 0xBFF0000000000000 = true ∧ isFinite 0x0000000000000001 = true := by
  decide +kernel

end Sys2Proof.Tests
end

section
/-! What a command does to the environment: nothing, but for the draws of 00_scope.md R7. -/

namespace Sys2Proof.Machine

/-! ### The draws -/

/-- A source that has the values to supply gives them, and none of its free ones. -/
theorem map_supplied {α : Type} (xs rest : List α) (free : Nat → α) :
    ((List.range xs.length).map fun i => ((xs ++ rest)[i]?).getD (free i)) = xs := by
  refine List.ext_getElem (by simp) fun i _ hi => ?_
  simp [List.getElem?_append_left hi, hi]

theorem drawGauss_supplied (s : State) (gs rest : List F64) (h : s.env.gaussIn = gs ++ rest) :
    (drawGauss gs.length s).1 = gs ∧
      (drawGauss gs.length s).2 =
        { s with env := { s.env with gaussIn := rest, gaussCount := s.env.gaussCount + gs.length } } := by
  simp only [drawGauss, h]
  exact ⟨map_supplied gs rest _, by rw [List.drop_left]⟩

theorem drawEntropy_supplied (s : State) (bs rest : List Bool) (h : s.env.entropyIn = bs ++ rest) :
    (drawEntropy bs.length s).1 = bs ∧
      (drawEntropy bs.length s).2 =
        { s with env := { s.env with
            entropyIn := rest, entropyCount := s.env.entropyCount + bs.length } } := by
  simp only [drawEntropy, h]
  exact ⟨map_supplied bs rest _, by rw [List.drop_left]⟩

/-! ### The environment after a command -/

theorem complete_env {s t : State} {m : CmdM State} (h : complete s m = .next t) :
    t.env = s.env ∨ ∃ u, m = .ok u ∧ t.env = u.env := by
  obtain ⟨u, hu, rfl⟩ | ⟨e, -, rfl⟩ := (complete_eq_next s t m).mp h
  · exact .inr ⟨u, hu, rfl⟩
  · exact .inl rfl

/-- A rule that writes registers and regions alone keeps the environment. -/
theorem complete_keeps_env {s t : State} {m : CmdM State} (h : complete s m = .next t)
    (hm : ∀ u, m = .ok u → u.env = s.env) : t.env = s.env := by
  obtain h | ⟨u, hu, h⟩ := complete_env h
  · exact h
  · exact h.trans (hm u hu)

theorem configRule_env {s u : State} (h : configRule s = .ok u) : u.env = s.env := by
  obtain ⟨-, ns, -, -, rfl⟩ := (configRule_eq_ok s u).mp h
  rfl

theorem encodeRule_env {s u : State} (h : encodeRule s = .ok u) : u.env = s.env := by
  obtain ⟨-, text, -, -, rfl⟩ := (encodeRule_eq_ok s u).mp h
  rfl

theorem decodeRule_env {src : BitSource} {s u : State} (h : decodeRule src s = .ok u) :
    u.env = s.env := by
  obtain ⟨bytes, -, rfl⟩ := (decodeRule_eq_ok src s u).mp h
  rfl

theorem checksumRule_env {s u : State} (h : checksumRule s = .ok u) : u.env = s.env := by
  obtain ⟨-, rfl⟩ := (checksumRule_eq_ok s u).mp h
  rfl

theorem compareRule_env {src : BitSource} {s u : State} (h : compareRule src s = .ok u) :
    u.env = s.env := by
  obtain ⟨bytes, -, d, -, rfl⟩ := (compareRule_eq_ok src s u).mp h
  rfl

theorem spreadRule_env {sel : CodeSel} {s u : State} (h : spreadRule sel s = .ok u) :
    u.env = s.env := by
  obtain ⟨-, -, -, bits, -, code, -, rfl⟩ := (spreadRule_eq_ok sel s u).mp h
  rfl

theorem refgenRule_env {x : WaveSel} {s u : State} (h : refgenRule x s = .ok u) : u.env = s.env := by
  obtain ⟨-, -, splus, -, rfl⟩ := (refgenRule_eq_ok x s u).mp h
  rfl

theorem despreadRule_env {sel : CodeSel} {x : WaveSel} {s u : State} (h : despreadRule sel x s = .ok u) :
    u.env = s.env := by
  obtain ⟨-, -, -, d, -, rfl⟩ := (despreadRule_eq_ok sel x s u).mp h
  rfl

theorem correlateRule_env {s u : State} (h : correlateRule s = .ok u) : u.env = s.env := by
  obtain ⟨-, -, ref, -, desp, -, rfl⟩ := (correlateRule_eq_ok s u).mp h
  rfl

theorem demodRule_env {sel : CodeSel} {x : WaveSel} {s u : State} (h : demodRule sel x s = .ok u) :
    u.env = s.env := by
  obtain ⟨-, -, -, -, d, -, ref, -, rfl⟩ := (demodRule_eq_ok sel x s u).mp h
  rfl

theorem pnGenRule_env {dst : CodeSel} {src : PnSource} {s u : State} (h : pnGenRule dst src s = .ok u) :
    u.env = s.env ∨ src = .entropy ∧ ∃ n, u.env = (drawEntropy n s).2.env := by
  obtain ⟨-, rfl⟩ := (pnGenRule_eq_ok dst src s u).mp h
  cases src with
  | lfsr => exact .inl rfl
  | entropy => exact .inr ⟨rfl, _, rfl⟩

theorem noiseDraw_env {gsrc : GaussSource} {m : Nat} {s : State} {g : List F64 × State}
    (h : noiseDraw gsrc m s = .ok g) :
    g.2.env = s.env ∨ gsrc = .internal ∧ ∃ n, g.2.env = (drawGauss n s).2.env := by
  cases gsrc with
  | internal =>
    cases h
    exact .inr ⟨rfl, m, rfl⟩
  | gnoise =>
    simp only [noiseDraw] at h
    cases hr : readSeq s .gnoise m with
    | error e => simp [hr, Except.map] at h
    | ok xs =>
      rw [hr] at h
      cases h
      exact .inl rfl

theorem modulateStart_env {noise intf : Bool} {gsrc : GaussSource} {s : State} {p : Modulated × State}
    (h : modulateStart noise intf gsrc s = .ok p) :
    p.2.env = s.env ∨ (noise = true ∧ gsrc = .internal) ∧ ∃ n, p.2.env = (drawGauss n s).2.env := by
  cases noise with
  | false =>
    obtain ⟨-, _, -, _, -, rfl⟩ := (modulateStart_clean_eq_ok intf gsrc s p).mp h
    exact .inl rfl
  | true =>
    obtain ⟨-, _, -, _, -, -, -, -, g, hg, rfl⟩ := (modulateStart_noise_eq_ok intf gsrc s p).mp h
    exact (noiseDraw_env hg).imp_right fun ⟨hsrc, hn⟩ => ⟨⟨rfl, hsrc⟩, hn⟩

theorem modulateFinish_env {noise intf diag : Bool} {m : Modulated} {s u : State}
    (h : modulateFinish noise intf diag m s = .ok u) : u.env = s.env := by
  obtain ⟨_, -, _, -, rfl⟩ := (modulateFinish_eq_ok noise intf diag m s u).mp h
  cases diag <;> rfl

theorem execModulate_env {noise intf diag : Bool} {gsrc : GaussSource} {s t : State}
    (h : execModulate noise intf diag gsrc s = .next t) :
    t.env = s.env ∨ (noise = true ∧ gsrc = .internal) ∧ ∃ n, t.env = (drawGauss n s).2.env := by
  rw [execModulate] at h
  split at h
  · exact .inl (complete_keeps_env h (by simp))
  · rename_i m s1 hstart
    rw [complete_keeps_env h fun _ => modulateFinish_env]
    exact modulateStart_env hstart

/-- What a completed command can do to the environment: keep it, or make the one draw that is its own. -/
theorem exec_env {i : Instr} {s t : State} (h : exec i s = .next t) :
    t.env = s.env ∨
      (∃ dst, i = .pnGen dst .entropy) ∧ (∃ n, t.env = (drawEntropy n s).2.env) ∨
      (∃ intf diag, i = .modulate true intf diag .internal) ∧ ∃ n, t.env = (drawGauss n s).2.env := by
  cases i with
  | pnGen dst src =>
    obtain h | ⟨u, hu, h⟩ := complete_env h
    · exact .inl h
    · rw [h]
      exact (pnGenRule_env hu).imp_right fun ⟨hsrc, hn⟩ => .inl ⟨⟨dst, by rw [hsrc]⟩, hn⟩
  | modulate noise intf diag gsrc =>
    exact (execModulate_env h).imp_right fun ⟨⟨hnoise, hsrc⟩, hn⟩ =>
      .inr ⟨⟨intf, diag, by rw [hnoise, hsrc]⟩, hn⟩
  | nop | pnSeed =>
    cases h
    exact .inl rfl
  | config => exact .inl (complete_keeps_env h fun _ => configRule_env)
  | encode => exact .inl (complete_keeps_env h fun _ => encodeRule_env)
  | decode _ => exact .inl (complete_keeps_env h fun _ => decodeRule_env)
  | checksum => exact .inl (complete_keeps_env h fun _ => checksumRule_env)
  | compare _ => exact .inl (complete_keeps_env h fun _ => compareRule_env)
  | spread _ => exact .inl (complete_keeps_env h fun _ => spreadRule_env)
  | refgen _ => exact .inl (complete_keeps_env h fun _ => refgenRule_env)
  | despread _ _ => exact .inl (complete_keeps_env h fun _ => despreadRule_env)
  | correlate => exact .inl (complete_keeps_env h fun _ => correlateRule_env)
  | demod _ _ => exact .inl (complete_keeps_env h fun _ => demodRule_env)
  | demodWrong _ => exact .inl (complete_keeps_env h fun _ => demodRule_env)

/-- Settles O10: a command keeps the environment or makes its own draw, and a draw takes what its source
supplies. -/
theorem onlyDrawsReachTheEnvironment : Obligations.OnlyDrawsReachTheEnvironment := by
  refine ⟨fun i s t h => ?_, drawGauss_supplied, drawEntropy_supplied⟩
  obtain henv | ⟨⟨dst, rfl⟩, n, henv⟩ | ⟨⟨intf, diag, rfl⟩, n, henv⟩ := exec_env h
  · simp [henv]
  · simp [henv]
  · simp [henv]

end Sys2Proof.Machine
end

section
/-! The binary64 primitives of 00_scope.md R12: what a pattern's sign and magnitude are, what a magnitude
stands for, and which pattern a rounding chooses. -/

namespace Sys2Proof.Machine

/-! ### Sign and magnitude of a pattern -/

theorem infBits_lt : infBits < 2 ^ 63 := by decide

theorem roundMag_lt (num den : Nat) : roundMag num den < 2 ^ 63 :=
  (Nat.min_le_right _ _).trans_lt infBits_lt

theorem magBits_lt (a : F64) : magBits a < 2 ^ 63 := Nat.mod_lt _ (by decide)

theorem toNat_withSign (b : Bool) (p : Nat) (hp : p < 2 ^ 63) :
    (withSign b p).toNat = (if b then 2 ^ 63 else 0) + p := by
  cases b <;> simp [withSign] <;> omega

theorem signBit_eq_decide (a : F64) : signBit a = decide (2 ^ 63 ≤ a.toNat) :=
  BitVec.msb_eq_decide a

theorem magBits_withSign (b : Bool) (p : Nat) (hp : p < 2 ^ 63) : magBits (withSign b p) = p := by
  rw [magBits, toNat_withSign b p hp]
  cases b
  · simpa using Nat.mod_eq_of_lt hp
  · simpa using Nat.mod_eq_of_lt hp

theorem signBit_withSign (b : Bool) (p : Nat) (hp : p < 2 ^ 63) : signBit (withSign b p) = b := by
  rw [signBit_eq_decide, toNat_withSign b p hp]
  cases b
  · simpa using hp
  · simp

/-- A pattern is its sign and its magnitude. -/
theorem withSign_signBit_magBits (a : F64) : withSign (signBit a) (magBits a) = a := by
  apply BitVec.eq_of_toNat_eq
  rw [toNat_withSign _ _ (magBits_lt a), signBit_eq_decide, magBits]
  have := a.isLt
  by_cases h : 2 ^ 63 ≤ a.toNat <;> simp only [h, decide_true, decide_false, if_true] <;> grind

/-! ### Negation changes the sign alone -/

@[simp] theorem magBits_fneg (a : F64) : magBits (fneg a) = magBits a := by
  rw [magBits, fneg, BitVec.toNat_xor, Nat.xor_mod_two_pow]
  exact Nat.xor_zero _

@[simp] theorem signBit_fneg (a : F64) : signBit (fneg a) = !signBit a := by
  simp [signBit, fneg]

@[simp] theorem isNaN_fneg (a : F64) : isNaN (fneg a) = isNaN a := by simp [isNaN]

@[simp] theorem isInf_fneg (a : F64) : isInf (fneg a) = isInf a := by simp [isInf]

@[simp] theorem isFinite_fneg (a : F64) : isFinite (fneg a) = isFinite a := by simp [isFinite]

@[simp] theorem unitsOf_fneg (a : F64) : unitsOf (fneg a) = unitsOf a := by simp [unitsOf]

@[simp] theorem signedUnits_fneg (a : F64) : signedUnits (fneg a) = -signedUnits a := by
  cases h : signBit a <;> simp [signedUnits, h]

theorem fneg_withSign (b : Bool) (p : Nat) (hp : p < 2 ^ 63) : fneg (withSign b p) = withSign (!b) p := by
  rw [← withSign_signBit_magBits (fneg (withSign b p)), signBit_fneg, magBits_fneg,
    signBit_withSign b p hp, magBits_withSign b p hp]

@[simp] theorem fneg_fneg (a : F64) : fneg (fneg a) = a := by
  rw [← withSign_signBit_magBits (fneg (fneg a))]
  simp [withSign_signBit_magBits]

/-! ### The operations on finite operands -/

theorem isNaN_of_isFinite {a : F64} (h : isFinite a = true) : isNaN a = false := by
  simp only [isFinite, isNaN, decide_eq_true_eq, decide_eq_false_iff_not] at *
  omega

theorem isInf_of_isFinite {a : F64} (h : isFinite a = true) : isInf a = false := by
  simp only [isFinite, isInf, decide_eq_true_eq, beq_eq_false_iff_ne] at *
  omega

theorem fmul_of_isFinite {a b : F64} (ha : isFinite a = true) (hb : isFinite b = true) :
    fmul a b =
      withSign (signBit a != signBit b) (roundMag (unitsOf a * unitsOf b) unitsPerOne) := by
  simp [fmul, isNaN_of_isFinite, isInf_of_isFinite, ha, hb]

theorem fadd_of_isFinite {a b : F64} (ha : isFinite a = true) (hb : isFinite b = true) :
    fadd a b =
      if signedUnits a + signedUnits b = 0 then withSign (signBit a && signBit b) 0
      else withSign (decide (signedUnits a + signedUnits b < 0))
        (roundMag (signedUnits a + signedUnits b).natAbs 1) := by
  simp [fadd, addAs, isNaN_of_isFinite, isInf_of_isFinite, ha, hb]

theorem fmul_fneg_left {a b : F64} (ha : isFinite a = true) (hb : isFinite b = true) :
    fmul (fneg a) b = fneg (fmul a b) := by
  rw [fmul_of_isFinite (by simpa using ha) hb, fmul_of_isFinite ha hb,
    fneg_withSign _ _ (roundMag_lt _ _)]
  simp

theorem fmul_fneg_right {a b : F64} (ha : isFinite a = true) (hb : isFinite b = true) :
    fmul a (fneg b) = fneg (fmul a b) := by
  rw [fmul_of_isFinite ha (by simpa using hb), fmul_of_isFinite ha hb,
    fneg_withSign _ _ (roundMag_lt _ _)]
  simp

theorem fadd_fneg_self {a : F64} (ha : isFinite a = true) : fadd a (fneg a) = posZero := by
  rw [fadd_of_isFinite ha (by simpa using ha)]
  simp [withSign, posZero]

/-- Settles O60: a finite product is its sign and a magnitude that no sign enters; and a value and its
negation cancel exactly, with signs that differ. -/
theorem negationIsExact : Obligations.NegationIsExact :=
  ⟨fun _ _ ha hb => ⟨fmul_fneg_left ha hb, fmul_fneg_right ha hb⟩, fun _ => fadd_fneg_self⟩

/-! ### What a magnitude stands for -/

theorem unitsPerOne_eq : unitsPerOne = 2 ^ 1074 := rfl

theorem unitsPerOne_pos : 0 < unitsPerOne := by
  rw [unitsPerOne_eq]
  positivity

/-- Every magnitude pattern is an exponent `k` in front of a significand `q`, of 53 bits unless `k` is 0. -/
theorem exists_scaled (p : Nat) : ∃ k q, p = k * 2 ^ 52 + q ∧ q < 2 ^ 53 ∧ (k = 0 ∨ 2 ^ 52 ≤ q) := by
  by_cases h : p < 2 ^ 52
  · exact ⟨0, p, by omega, by omega, .inl rfl⟩
  · exact ⟨p / 2 ^ 52 - 1, p - (p / 2 ^ 52 - 1) * 2 ^ 52, by omega, by omega, .inr (by omega)⟩

/-- Exponent `k` in front of significand `q` stands for `q * 2^k` units; a significand of `2^53`, which has
carried into the exponent, too. -/
theorem unitsOf_withSign_scaled (b : Bool) (k q : Nat) (hp : k * 2 ^ 52 + q < 2 ^ 63) (hq : q ≤ 2 ^ 53)
    (hk : k = 0 ∨ 2 ^ 52 ≤ q) : unitsOf (withSign b (k * 2 ^ 52 + q)) = q * 2 ^ k := by
  simp only [unitsOf, magBits_withSign b _ hp]
  obtain hlow | hmid | rfl : q < 2 ^ 52 ∨ (2 ^ 52 ≤ q ∧ q < 2 ^ 53) ∨ q = 2 ^ 53 := by omega
  · obtain rfl : k = 0 := by omega
    rw [if_pos (by omega)]
    omega
  · have hexp : (k * 2 ^ 52 + q) / 2 ^ 52 = k + 1 := by omega
    have hfrac : (k * 2 ^ 52 + q) % 2 ^ 52 = q - 2 ^ 52 := by omega
    rw [hexp, hfrac, if_neg (by omega), Nat.add_sub_cancel' hmid.1, Nat.add_sub_cancel]
  · have hexp : (k * 2 ^ 52 + 2 ^ 53) / 2 ^ 52 = k + 2 := by omega
    have hfrac : (k * 2 ^ 52 + 2 ^ 53) % 2 ^ 52 = 0 := by omega
    rw [hexp, hfrac, if_neg (by omega)]
    grind

theorem unitsOf_withSign_lt_succ {p : Nat} (hp : p + 1 < 2 ^ 63) :
    unitsOf (withSign false p) < unitsOf (withSign false (p + 1)) := by
  obtain ⟨k, q, rfl, hq, hk⟩ := exists_scaled p
  rw [Nat.add_assoc] at hp ⊢
  rw [unitsOf_withSign_scaled false k q (by omega) (by omega) hk,
    unitsOf_withSign_scaled false k (q + 1) hp (by omega) (by omega)]
  exact Nat.mul_lt_mul_of_pos_right (by omega) (Nat.two_pow_pos k)

/-- A larger magnitude pattern stands for a larger value. -/
theorem unitsOf_withSign_lt {p m : Nat} (hpm : p < m) (hm : m < 2 ^ 63) :
    unitsOf (withSign false p) < unitsOf (withSign false m) := by
  induction m, hpm using Nat.le_induction with
  | base => exact unitsOf_withSign_lt_succ hm
  | succ n _ ih => exact (ih (by omega)).trans (unitsOf_withSign_lt_succ hm)

theorem unitsOf_withSign_injective {p m : Nat} (hp : p < 2 ^ 63) (hm : m < 2 ^ 63)
    (h : unitsOf (withSign false p) = unitsOf (withSign false m)) : p = m := by
  obtain hlt | heq | hgt := Nat.lt_trichotomy p m
  · exact absurd h (unitsOf_withSign_lt hlt hm).ne
  · exact heq
  · exact absurd h (unitsOf_withSign_lt hgt hp).ne'

/-- A magnitude is a multiple of `2^k` units, or it lies below every value whose exponent is `k`. -/
theorem unitsOf_withSign_multiple_or_lt (k m : Nat) (hm : m < 2 ^ 63) :
    (∃ j, unitsOf (withSign false m) = j * 2 ^ k) ∨
      0 < k ∧ unitsOf (withSign false m) < 2 ^ 52 * 2 ^ k := by
  obtain ⟨k', q, rfl, hq, hk'⟩ := exists_scaled m
  rw [unitsOf_withSign_scaled false k' q hm hq.le hk']
  by_cases hkk : k ≤ k'
  · exact .inl ⟨q * 2 ^ (k' - k), by rw [Nat.mul_assoc, ← Nat.pow_add, Nat.sub_add_cancel hkk]⟩
  · refine .inr ⟨by omega, ?_⟩
    calc q * 2 ^ k' < 2 ^ 53 * 2 ^ k' := Nat.mul_lt_mul_of_pos_right hq (Nat.two_pow_pos k')
      _ = 2 ^ 52 * 2 ^ (k' + 1) := by rw [Nat.pow_succ]; omega
      _ ≤ 2 ^ 52 * 2 ^ k := Nat.mul_le_mul_left _ (Nat.pow_le_pow_right (by omega) (by omega))

/-! ### What a rounding chooses -/

/-- The exponent `roundMag` puts in front of the rounded significand. -/
def roundExponent (num den : Nat) : Nat := Nat.log2 (num / den) - 52

/-- The significand `roundMag` rounds to. -/
def roundSignificand (num den : Nat) : Nat := roundHalfEvenQuot num (den * 2 ^ roundExponent num den)

theorem roundMag_eq (num den : Nat) :
    roundMag num den = min (roundExponent num den * 2 ^ 52 + roundSignificand num den) infBits := rfl

/-- `roundHalfEvenQuot` is the quotient or the next integer, by the remainder. -/
theorem roundHalfEvenQuot_cases (num den : Nat) :
    let q := num / den
    let r := num % den
    (roundHalfEvenQuot num den = q ∧ (2 * r < den ∨ 2 * r = den ∧ q % 2 = 0)) ∨
      (roundHalfEvenQuot num den = q + 1 ∧ (den < 2 * r ∨ 2 * r = den ∧ q % 2 = 1)) := by
  simp only [roundHalfEvenQuot]
  split <;> omega

@[simp] theorem roundHalfEvenQuot_mul (q den : Nat) (hden : 0 < den) :
    roundHalfEvenQuot (q * den) den = q := by
  have := roundHalfEvenQuot_cases (q * den) den
  rw [Nat.mul_mod_left, Nat.mul_div_cancel _ hden] at this
  omega

/-- How far `i` lies from the quotient `num / den`, times `den`. -/
def quotDistance (num den i : Nat) : Nat := ((num : Int) - i * den).natAbs

theorem quotDistance_eq (num den i : Nat) :
    quotDistance num den i = (((num / den : Nat) - i : Int) * den + (num % den : Nat)).natAbs := by
  have hnum : (den : Int) * (num / den : Nat) + (num % den : Nat) = num := by
    exact_mod_cast Nat.div_add_mod num den
  rw [quotDistance]
  congr 1
  linear_combination -hnum

theorem quotDistance_floor (num den : Nat) : quotDistance num den (num / den) = num % den := by
  rw [quotDistance_eq, sub_self, zero_mul, zero_add, Int.natAbs_natCast]

theorem quotDistance_ceil (num den : Nat) (hden : 0 < den) :
    quotDistance num den (num / den + 1) = den - num % den := by
  have hrem := Nat.mod_lt num hden
  rw [quotDistance_eq, Nat.cast_succ, sub_add_cancel_left, neg_one_mul]
  omega

theorem lt_quotDistance_below (num den j : Nat) (hden : 0 < den) (hj : j < num / den) :
    num % den < quotDistance num den j := by
  have : (den : Int) ≤ ((num / den : Nat) - j : Int) * den := le_mul_of_one_le_left (by omega) (by omega)
  rw [quotDistance_eq]
  omega

theorem lt_quotDistance_above (num den j : Nat) (hden : 0 < den) (hj : num / den + 1 < j) :
    den - num % den < quotDistance num den j := by
  have hrem := Nat.mod_lt num hden
  have : ((num / den : Nat) - j : Int) * den ≤ -2 * den := mul_le_mul_of_nonneg_right (by omega) (by omega)
  rw [quotDistance_eq]
  omega

/-- No integer is nearer to `num / den` than the rounded one, and another is equally near only where the
rounded one is even. -/
theorem roundHalfEvenQuot_nearest (num den j : Nat) (hden : 0 < den) :
    quotDistance num den (roundHalfEvenQuot num den) ≤ quotDistance num den j ∧
      (quotDistance num den (roundHalfEvenQuot num den) = quotDistance num den j →
        j ≠ roundHalfEvenQuot num den → roundHalfEvenQuot num den % 2 = 0) := by
  have hfloor := quotDistance_floor num den
  have hceil := quotDistance_ceil num den hden
  have hbelow := lt_quotDistance_below num den j hden
  have habove := lt_quotDistance_above num den j hden
  have hplace : j < num / den ∨ j = num / den ∨ j = num / den + 1 ∨ num / den + 1 < j := by omega
  obtain ⟨hq, hrem⟩ | ⟨hq, hrem⟩ := roundHalfEvenQuot_cases num den
  · rw [hq, hfloor]
    obtain hj | rfl | rfl | hj := hplace <;> omega
  · rw [hq, hceil]
    obtain hj | rfl | rfl | hj := hplace <;> omega

theorem lt_roundSignificand_scale (num den : Nat) (hden : 0 < den) :
    num < 2 ^ 53 * (den * 2 ^ roundExponent num den) := by
  have hlog : num / den < 2 ^ (53 + roundExponent num den) :=
    Nat.lt_log2_self.trans_le (Nat.pow_le_pow_right (by omega) (by rw [roundExponent]; omega))
  calc num < 2 ^ (53 + roundExponent num den) * den := (Nat.div_lt_iff_lt_mul hden).mp hlog
    _ = 2 ^ 53 * (den * 2 ^ roundExponent num den) := by rw [Nat.pow_add]; ac_rfl

theorem roundSignificand_scale_le (num den : Nat) (hden : 0 < den) (hk : 0 < roundExponent num den) :
    2 ^ 52 * (den * 2 ^ roundExponent num den) ≤ num := by
  have hlog : 2 ^ (52 + roundExponent num den) ≤ num / den := by
    rw [roundExponent] at hk ⊢
    rw [Nat.add_sub_cancel' (by omega)]
    exact Nat.log2_self_le fun h => by simp [h] at hk
  calc 2 ^ 52 * (den * 2 ^ roundExponent num den)
      = 2 ^ (52 + roundExponent num den) * den := by rw [Nat.pow_add]; ac_rfl
    _ ≤ num := (Nat.le_div_iff_mul_le hden).mp hlog

/-- The rounded significand has 53 bits unless the exponent is 0, or it is `2^53`. -/
theorem roundSignificand_bounds (num den : Nat) (hden : 0 < den) :
    roundSignificand num den ≤ 2 ^ 53 ∧
      (roundExponent num den = 0 ∨ 2 ^ 52 ≤ roundSignificand num den) := by
  have hD : 0 < den * 2 ^ roundExponent num den := Nat.mul_pos hden (Nat.two_pow_pos _)
  have hlt := (Nat.div_lt_iff_lt_mul hD).mpr (lt_roundSignificand_scale num den hden)
  have hcases := roundHalfEvenQuot_cases num (den * 2 ^ roundExponent num den)
  rw [← roundSignificand] at hcases
  refine ⟨by omega, (Nat.eq_zero_or_pos _).imp_right fun hk => ?_⟩
  have hle := (Nat.le_div_iff_mul_le hD).mpr (roundSignificand_scale_le num den hden hk)
  omega

theorem roundMag_of_lt {num den : Nat} (h : roundMag num den < infBits) :
    roundMag num den = roundExponent num den * 2 ^ 52 + roundSignificand num den := by
  rw [roundMag_eq] at h ⊢
  omega

/-- A finite rounding stands for its significand times the power of two its exponent names. -/
theorem unitsOf_withSign_roundMag (b : Bool) {num den : Nat} (hden : 0 < den)
    (h : roundMag num den < infBits) :
    unitsOf (withSign b (roundMag num den)) =
      roundSignificand num den * 2 ^ roundExponent num den := by
  obtain ⟨hle, hk⟩ := roundSignificand_bounds num den hden
  have hlt := roundMag_lt num den
  rw [roundMag_of_lt h] at hlt ⊢
  exact unitsOf_withSign_scaled b _ _ hlt hle hk

/-- The distance of a magnitude that stands for `i * 2^k` units. -/
theorem near_eq_quotDistance {num den k p i : Nat} (hp : unitsOf (withSign false p) = i * 2 ^ k) :
    ((num : Int) - unitsOf (withSign false p) * den).natAbs = quotDistance num (den * 2 ^ k) i := by
  rw [quotDistance, hp]
  push_cast
  congr 1
  ring

/-- What lies below `c * 2^k`, itself at most the quotient, is farther from it than that. -/
theorem quotDistance_lt_of_below {num den k c u : Nat} (hden : 0 < den) (hu : u < c * 2 ^ k)
    (hc : c * (den * 2 ^ k) ≤ num) :
    quotDistance num (den * 2 ^ k) c < ((num : Int) - u * den).natAbs := by
  have hfar : u * den < c * (den * 2 ^ k) :=
    (Nat.mul_lt_mul_of_pos_right hu hden).trans_eq (by ring)
  zify at hfar hc
  rw [quotDistance]
  push_cast
  omega

/-- Settles O58. In units of `2^k`, with `k` the exponent chosen, the choice is the integer nearest to the
quotient. A magnitude that is no such integer lies below the exponent's range, farther off than the range's
lower end. -/
theorem roundingIsNearestEven : Obligations.RoundingIsNearestEven := by
  intro num den m hden hfin hm near
  have hm63 : m < 2 ^ 63 := hm.trans infBits_lt
  have hunits := unitsOf_withSign_roundMag false hden hfin
  have hDpos : 0 < den * 2 ^ roundExponent num den := Nat.mul_pos hden (Nat.two_pow_pos _)
  obtain ⟨j, hj⟩ | ⟨hk, hlow⟩ := unitsOf_withSign_multiple_or_lt (roundExponent num den) m hm63
  · obtain ⟨hle, heven⟩ := roundHalfEvenQuot_nearest num _ j hDpos
    rw [← near_eq_quotDistance hj, ← roundSignificand, ← near_eq_quotDistance hunits] at hle heven
    refine ⟨hle, fun htie hne => ?_⟩
    have hjne : j ≠ roundSignificand num den := by
      rintro rfl
      exact hne (unitsOf_withSign_injective hm63 (roundMag_lt _ _) (hj.trans hunits.symm))
    have hq : roundSignificand num den % 2 = 0 := heven htie hjne
    rw [roundMag_of_lt hfin]
    omega
  · obtain ⟨hle, -⟩ := roundHalfEvenQuot_nearest num _ (2 ^ 52) hDpos
    rw [← roundSignificand, ← near_eq_quotDistance hunits] at hle
    have hlt := hle.trans_lt (quotDistance_lt_of_below hden hlow (roundSignificand_scale_le num den hden hk))
    exact ⟨hlt.le, fun htie => absurd htie hlt.ne⟩

/-! ### Integers -/

theorem roundExponent_le_of_lt {num e : Nat} (h : num < 2 ^ (53 + e)) : roundExponent num 1 ≤ e := by
  rw [roundExponent, Nat.div_one]
  obtain rfl | hnum := eq_or_ne num 0
  · simp
  · have := (Nat.log2_lt hnum).mpr h
    omega

/-- A number of units with no set bit below the significand is rounded to itself. -/
theorem roundSignificand_of_dvd {num e : Nat} (h : 2 ^ e ∣ num) (he : roundExponent num 1 ≤ e) :
    roundSignificand num 1 * 2 ^ roundExponent num 1 = num := by
  rw [roundSignificand, Nat.one_mul]
  generalize roundExponent num 1 = k at he ⊢
  obtain ⟨q, rfl⟩ := (Nat.pow_dvd_pow 2 he).trans h
  rw [Nat.mul_comm _ q, roundHalfEvenQuot_mul _ _ (Nat.two_pow_pos k)]

/-- An integer of at most 53 bits, or `2^53`, in units of `2^-t`, needs no bit below its significand. -/
theorem roundExponent_mul_two_pow {n t : Nat} (hn : n ≤ 2 ^ 53) :
    ∃ e, 2 ^ e ∣ n * 2 ^ t ∧ roundExponent (n * 2 ^ t) 1 ≤ e ∧ e ≤ t + 1 := by
  obtain hlt | rfl := hn.lt_or_eq
  · refine ⟨t, Nat.dvd_mul_left _ _, roundExponent_le_of_lt ?_, by omega⟩
    rw [Nat.pow_add]
    exact Nat.mul_lt_mul_of_pos_right hlt (Nat.two_pow_pos t)
  · rw [← Nat.pow_add]
    exact ⟨t + 1, Nat.pow_dvd_pow 2 (by omega),
      roundExponent_le_of_lt (Nat.pow_lt_pow_right (by omega) (by omega)), le_rfl⟩

theorem roundMag_int {n : Nat} (hn : n ≤ 2 ^ 53) (b : Bool) :
    roundMag (n * unitsPerOne) 1 < infBits ∧
      unitsOf (withSign b (roundMag (n * unitsPerOne) 1)) = n * unitsPerOne := by
  obtain ⟨e, hdvd, hexp, he⟩ := roundExponent_mul_two_pow (t := 1074) hn
  rw [← unitsPerOne_eq] at hdvd hexp
  have hsig := (roundSignificand_bounds (n * unitsPerOne) 1 one_pos).1
  have hfin : roundMag (n * unitsPerOne) 1 < infBits := by
    rw [roundMag_eq, infBits]
    omega
  exact ⟨hfin, (unitsOf_withSign_roundMag b one_pos hfin).trans (roundSignificand_of_dvd hdvd hexp)⟩

theorem isFinite_withSign (b : Bool) {p : Nat} (hp : p < infBits) : isFinite (withSign b p) = true := by
  rw [isFinite, magBits_withSign b p (hp.trans infBits_lt), decide_eq_true hp]

@[simp] theorem signBit_i2f (n : Int) : signBit (i2f n) = decide (n < 0) :=
  signBit_withSign _ _ (roundMag_lt _ _)

theorem isFinite_i2f {n : Int} (hn : n.natAbs ≤ 2 ^ 53) : isFinite (i2f n) = true :=
  isFinite_withSign _ (roundMag_int hn true).1

theorem unitsOf_i2f {n : Int} (hn : n.natAbs ≤ 2 ^ 53) : unitsOf (i2f n) = n.natAbs * unitsPerOne :=
  (roundMag_int hn _).2

theorem signedUnits_i2f {n : Int} (hn : n.natAbs ≤ 2 ^ 53) : signedUnits (i2f n) = n * unitsPerOne := by
  rw [signedUnits, signBit_i2f, unitsOf_i2f hn, Nat.cast_mul]
  obtain h | h := lt_or_ge n 0
  · rw [decide_eq_true h, if_pos rfl, ← neg_mul, Int.ofNat_natAbs_of_nonpos h.le, neg_neg]
  · rw [decide_eq_false h.not_gt, if_neg Bool.false_ne_true, Int.natAbs_of_nonneg h]

theorem roundHalfEven_i2f {n : Int} (hn : n.natAbs ≤ 2 ^ 53) : roundHalfEven (i2f n) = n := by
  rw [roundHalfEven, signBit_i2f, unitsOf_i2f hn, roundHalfEvenQuot_mul _ _ unitsPerOne_pos]
  obtain h | h := lt_or_ge n 0
  · rw [decide_eq_true h, if_pos rfl, Int.ofNat_natAbs_of_nonpos h.le, neg_neg]
  · rw [decide_eq_false h.not_gt, if_neg Bool.false_ne_true, Int.natAbs_of_nonneg h]

/-- Settles O59: such an integer, in units, fits the significand, so its rounding is exact. -/
theorem integersConvertExactly : Obligations.IntegersConvertExactly := fun n hn =>
  ⟨isFinite_i2f hn,
    by rw [signedUnits_i2f hn, unitsPerOne_eq, Nat.cast_pow, Nat.cast_two],
    roundHalfEven_i2f hn⟩

end Sys2Proof.Machine
end

section
/-! What a completed command writes: which errors it can report, and which flags, registers and regions its
rule changes (10_state.md R31 to R45; 60_exceptions.md R234, R236). -/

namespace Sys2Proof.Machine

/-! ### The errors of the DETAIL table -/

/-- Every error that `m` raises stands in the table of 60_exceptions.md R234. -/
def RaisesListed {α : Type} (m : CmdM α) : Prop :=
  ∀ e, m = .error (.raise e) → e.listed

theorem RaisesListed.bind {α β : Type} {m : CmdM α} {f : α → CmdM β} (hm : RaisesListed m)
    (hf : ∀ a, RaisesListed (f a)) : RaisesListed (m >>= f) := by
  intro e he
  obtain he | ⟨a, -, he⟩ := (bind_eq_error _ _ _).mp he
  · exact hm e he
  · exact hf a e he

theorem RaisesListed.map {α β : Type} {m : CmdM α} (hm : RaisesListed m) (f : α → β) :
    RaisesListed (m.map f) := by
  intro e he
  cases m with
  | error x =>
    cases he
    exact hm e rfl
  | ok a => cases he

theorem raisesListed_pure {α : Type} (a : α) : RaisesListed (pure a : CmdM α) :=
  fun e he => absurd he (pure_ne_error a (.raise e))

theorem raisesListed_raiseIf (c : Bool) {e : CmdError} (he : e.listed) : RaisesListed (raiseIf c e) := by
  intro x hx
  obtain ⟨-, h⟩ := (raiseIf_eq_error c e _).mp hx
  cases h
  exact he

/-- A raise whose error is one of the table's, whatever the INDEX it reports. -/
theorem raisesListed_raiseIf_bind {β : Type} (c : Bool) {e : CmdError} {f : Unit → CmdM β} (he : e.listed)
    (hf : RaisesListed (f ())) : RaisesListed (raiseIf c e >>= f) :=
  (raisesListed_raiseIf c he).bind fun _ => hf

theorem raisesListed_readSeq (s : State) (r : Region) (n : Nat) : RaisesListed (readSeq s r n) :=
  fun _ he => by cases readSeq_error s r n _ he

theorem listed_config {d : Nat} (h : 1 ≤ d ∧ d ≤ 12) : (CmdError.config d).listed := h

theorem listed_length {d n : Nat} (h : 1 ≤ d ∧ d ≤ 8) : (CmdError.length d n).listed := h

theorem listed_capacity {r : Region} {n : Int}
    (h : r ∈ [Region.bits, .codeA, .chips, .tx, .result, .dtext, .splus]) :
    (CmdError.capacity r n).listed := h

theorem raisesListed_needConfig (s : State) : RaisesListed (needConfig s) :=
  raisesListed_raiseIf _ (listed_config (by decide))

theorem raisesListed_checkCodeLength (sel : CodeSel) (s : State) : RaisesListed (checkCodeLength sel s) :=
  raisesListed_raiseIf _ (listed_length (by decide))

theorem raisesListed_checkWaveLength (x : WaveSel) (s : State) : RaisesListed (checkWaveLength x s) :=
  raisesListed_raiseIf _ (listed_length (by decide))

theorem raisesListed_configRule (s : State) : RaisesListed (configRule s) := by
  have hinputs : RaisesListed (configInputs s) :=
    raisesListed_raiseIf_bind _ (listed_config (by decide)) <|
    raisesListed_raiseIf_bind _ (listed_capacity (by decide)) <|
    raisesListed_raiseIf_bind _ (listed_config (by decide)) <|
    raisesListed_raiseIf_bind _ (listed_config (by decide)) <|
    raisesListed_raiseIf_bind _ (listed_config (by decide)) <|
    raisesListed_raiseIf _ (listed_config (by decide))
  have hcount : RaisesListed (configCount s) :=
    raisesListed_raiseIf_bind _ (listed_config (by decide)) <|
    raisesListed_raiseIf_bind _ (listed_config (by decide)) <|
    raisesListed_raiseIf_bind _ (listed_capacity (by decide)) <| raisesListed_pure _
  exact hinputs.bind fun _ => hcount.bind fun _ =>
    raisesListed_raiseIf_bind _ (listed_config (by decide)) <| raisesListed_pure _

/-- A RangeError names a field 1 to 12. -/
theorem raisesListed_checkFields (s : State) : RaisesListed (checkFields s) := by
  intro e he
  simp only [checkFields] at he
  split at he
  · rename_i k hk
    have hlt : k < 12 := by simpa using (List.findIdx?_eq_some_iff_getElem.mp hk).1
    cases he
    exact ⟨by omega, by omega⟩
  · cases he

theorem raisesListed_scanText (s : State) (j n : Nat) : RaisesListed (scanText s j n) := by
  induction n generalizing j with
  | zero => exact raisesListed_pure _
  | succ n ih =>
    rw [scanText]
    split
    · intro e he
      cases he
    · split
      · intro e he
        cases he
        trivial
      · exact (ih (j + 1)).bind fun _ => raisesListed_pure _

theorem raisesListed_encodeRule (s : State) : RaisesListed (encodeRule s) :=
  (raisesListed_checkFields s).bind fun _ => (raisesListed_scanText s 0 _).bind fun _ =>
    raisesListed_raiseIf_bind _ (listed_capacity (by decide)) <| raisesListed_pure _

theorem raisesListed_decodeBytes (src : BitSource) (s : State) : RaisesListed (decodeBytes src s) := by
  have hlength : RaisesListed (checkFrameLength s (s.lenOf (bitRegion src))) :=
    raisesListed_raiseIf_bind _ (listed_length (by decide)) <|
    raisesListed_raiseIf_bind _ (listed_length (by decide)) <|
    raisesListed_raiseIf _ (listed_capacity (by decide))
  exact hlength.bind fun _ => (raisesListed_readSeq s _ _).bind fun _ => raisesListed_pure _

theorem raisesListed_decodeRule (src : BitSource) (s : State) : RaisesListed (decodeRule src s) :=
  (raisesListed_decodeBytes src s).bind fun _ => raisesListed_pure _

theorem raisesListed_checksumRule (s : State) : RaisesListed (checksumRule s) :=
  (raisesListed_checkFields s).bind fun _ => raisesListed_pure _

theorem raisesListed_textDiffers (dtext : List Nat) (s : State) : RaisesListed (textDiffers dtext s) := by
  rw [textDiffers]
  split
  · split
    · exact raisesListed_pure _
    · exact (raisesListed_readSeq s _ _).bind fun _ => raisesListed_pure _
  · exact raisesListed_pure _

theorem raisesListed_compareRule (src : BitSource) (s : State) : RaisesListed (compareRule src s) :=
  (raisesListed_decodeBytes src s).bind fun _ => (raisesListed_textDiffers _ s).bind fun _ =>
    raisesListed_pure _

theorem raisesListed_pnGenRule (dst : CodeSel) (src : PnSource) (s : State) :
    RaisesListed (pnGenRule dst src s) :=
  (raisesListed_needConfig s).bind fun _ => raisesListed_pure _

theorem raisesListed_spreadRule (sel : CodeSel) (s : State) : RaisesListed (spreadRule sel s) :=
  (raisesListed_needConfig s).bind fun _ => (raisesListed_checkCodeLength sel s).bind fun _ =>
    raisesListed_raiseIf_bind _ (listed_capacity (by decide)) <|
      (raisesListed_readSeq s _ _).bind fun _ => (raisesListed_readSeq s _ _).bind fun _ =>
        raisesListed_pure _

theorem raisesListed_refgenRule (x : WaveSel) (s : State) : RaisesListed (refgenRule x s) :=
  (raisesListed_needConfig s).bind fun _ => (raisesListed_checkWaveLength x s).bind fun _ =>
    (raisesListed_readSeq s _ _).bind fun _ => raisesListed_pure _

theorem raisesListed_despreadData (sel : CodeSel) (x : WaveSel) (s : State) :
    RaisesListed (despreadData sel x s) :=
  (raisesListed_readSeq s _ _).bind fun _ => (raisesListed_readSeq s _ _).bind fun _ =>
    raisesListed_pure _

theorem raisesListed_despreadRule (sel : CodeSel) (x : WaveSel) (s : State) :
    RaisesListed (despreadRule sel x s) :=
  (raisesListed_needConfig s).bind fun _ => (raisesListed_checkCodeLength sel s).bind fun _ =>
    (raisesListed_checkWaveLength x s).bind fun _ => (raisesListed_despreadData sel x s).bind fun _ =>
      raisesListed_pure _

theorem raisesListed_correlateChecks (m : Nat) (s : State) : RaisesListed (correlateChecks m s) :=
  raisesListed_raiseIf_bind _ (listed_length (by decide)) <|
  raisesListed_raiseIf_bind _ (listed_length (by decide)) <|
  raisesListed_raiseIf _ (listed_capacity (by decide))

theorem raisesListed_correlateRule (s : State) : RaisesListed (correlateRule s) :=
  (raisesListed_needConfig s).bind fun _ => (raisesListed_correlateChecks _ s).bind fun _ =>
    (raisesListed_readSeq s _ _).bind fun _ => (raisesListed_readSeq s _ _).bind fun _ =>
      raisesListed_pure _

theorem raisesListed_demodRule (sel : CodeSel) (x : WaveSel) (s : State) :
    RaisesListed (demodRule sel x s) :=
  (raisesListed_needConfig s).bind fun _ => (raisesListed_checkCodeLength sel s).bind fun _ =>
    (raisesListed_checkWaveLength x s).bind fun _ => (raisesListed_correlateChecks _ s).bind fun _ =>
      (raisesListed_despreadData sel x s).bind fun _ => (raisesListed_readSeq s _ _).bind fun _ =>
        raisesListed_pure _

theorem raisesListed_modulateStart (noise intf : Bool) (gsrc : GaussSource) (s : State) :
    RaisesListed (modulateStart noise intf gsrc s) := by
  have hchecks : RaisesListed (modulateChecks noise intf gsrc s) :=
    (raisesListed_needConfig s).bind fun _ =>
      raisesListed_raiseIf_bind _ (listed_capacity (by decide)) <|
      raisesListed_raiseIf_bind _ (listed_length (by decide)) <|
      raisesListed_raiseIf _ (listed_length (by decide))
  have hdraw : RaisesListed (noiseDraw gsrc (modulateLength s) s) := by
    cases gsrc with
    | internal => exact raisesListed_pure _
    | gnoise => exact (raisesListed_readSeq s _ _).map _
  refine hchecks.bind fun _ => (raisesListed_readSeq s _ _).bind fun _ =>
    (raisesListed_readSeq s _ _).bind fun _ => ?_
  dsimp only
  split
  · exact raisesListed_raiseIf_bind _ (listed_config (by decide)) <|
      raisesListed_raiseIf_bind _ (listed_config (by decide)) <| hdraw.bind fun ⟨_, _⟩ => raisesListed_pure _
  · exact raisesListed_pure _

theorem raisesListed_modulateFinish (noise intf diag : Bool) (m : Modulated) (s : State) :
    RaisesListed (modulateFinish noise intf diag m s) := by
  have hscaled : RaisesListed (scaledNoise noise s m.wave m.draw) := by
    rw [scaledNoise]
    split
    · exact raisesListed_raiseIf_bind _ (listed_config (by decide)) <|
        raisesListed_raiseIf_bind _ (listed_config (by decide)) <| raisesListed_pure _
    · exact raisesListed_pure _
  exact hscaled.bind fun ⟨_, _⟩ => (raisesListed_readSeq s _ _).bind fun _ => raisesListed_pure _

/-! ### What a step of the engine can do -/

/-- The rule of command `i` succeeds on `s` with the state `u`, its completion still to come (R15, R236). -/
def RuleSucceeds (i : Instr) (s u : State) : Prop :=
  match i with
  | .nop => u = s
  | .config => configRule s = .ok u
  | .pnSeed => u = { s with lfsr := s.seed }
  | .encode => encodeRule s = .ok u
  | .decode src => decodeRule src s = .ok u
  | .checksum => checksumRule s = .ok u
  | .compare src => compareRule src s = .ok u
  | .pnGen dst src => pnGenRule dst src s = .ok u
  | .spread sel => spreadRule sel s = .ok u
  | .modulate noise intf diag gsrc =>
    ∃ p, modulateStart noise intf gsrc s = .ok p ∧ modulateFinish noise intf diag p.1 p.2 = .ok u
  | .refgen x => refgenRule x s = .ok u
  | .despread sel x => despreadRule sel x s = .ok u
  | .correlate => correlateRule s = .ok u
  | .demod sel x => demodRule sel x s = .ok u
  | .demodWrong x => demodRule .codeB x s = .ok u

theorem complete_cases {s t : State} {m : CmdM State} (h : complete s m = .next t) (hm : RaisesListed m) :
    (∃ u, m = .ok u ∧ t = completeOk u) ∨ ∃ e, e.listed ∧ t = takeError e s := by
  obtain hok | ⟨e, he, ht⟩ := (complete_eq_next s t m).mp h
  · exact .inl hok
  · exact .inr ⟨e, hm e he, ht⟩

theorem noiseDraw_state {gsrc : GaussSource} {m : Nat} {s : State} {g : List F64 × State}
    (h : noiseDraw gsrc m s = .ok g) : g.2 = { s with env := g.2.env } := by
  cases gsrc with
  | internal =>
    cases h
    rfl
  | gnoise =>
    simp only [noiseDraw] at h
    cases hr : readSeq s .gnoise m with
    | error e => simp [hr, Except.map] at h
    | ok xs =>
      rw [hr] at h
      cases h
      rfl

theorem modulateStart_state {noise intf : Bool} {gsrc : GaussSource} {s : State} {p : Modulated × State}
    (h : modulateStart noise intf gsrc s = .ok p) : p.2 = { s with env := p.2.env } := by
  cases noise with
  | false =>
    obtain ⟨-, _, -, _, -, rfl⟩ := (modulateStart_clean_eq_ok intf gsrc s p).mp h
    rfl
  | true =>
    obtain ⟨-, _, -, _, -, -, -, -, g, hg, rfl⟩ := (modulateStart_noise_eq_ok intf gsrc s p).mp h
    exact noiseDraw_state hg

/-- A completed command has carried out its rule, or has reported a listed error and changed nothing but the
completion bits and the draws already made. -/
theorem exec_cases {i : Instr} {s t : State} (h : exec i s = .next t) :
    (∃ u, RuleSucceeds i s u ∧ t = completeOk u) ∨
      ∃ e env, CmdError.listed e ∧ t = takeError e { s with env := env } := by
  have withEnv {m : CmdM State} (hc : complete s m = .next t) (hm : RaisesListed m) :
      (∃ u, m = .ok u ∧ t = completeOk u) ∨
        ∃ e env, CmdError.listed e ∧ t = takeError e { s with env := env } :=
    (complete_cases hc hm).imp_right fun ⟨e, he, ht⟩ => ⟨e, s.env, he, ht⟩
  cases i with
  | nop | pnSeed =>
    cases h
    exact .inl ⟨_, rfl, rfl⟩
  | config => exact withEnv h (raisesListed_configRule s)
  | encode => exact withEnv h (raisesListed_encodeRule s)
  | decode src => exact withEnv h (raisesListed_decodeRule src s)
  | checksum => exact withEnv h (raisesListed_checksumRule s)
  | compare src => exact withEnv h (raisesListed_compareRule src s)
  | pnGen dst src => exact withEnv h (raisesListed_pnGenRule dst src s)
  | spread sel => exact withEnv h (raisesListed_spreadRule sel s)
  | refgen x => exact withEnv h (raisesListed_refgenRule x s)
  | despread sel x => exact withEnv h (raisesListed_despreadRule sel x s)
  | correlate => exact withEnv h (raisesListed_correlateRule s)
  | demod sel x => exact withEnv h (raisesListed_demodRule sel x s)
  | demodWrong x => exact withEnv h (raisesListed_demodRule .codeB x s)
  | modulate noise intf diag gsrc =>
    simp only [exec, execModulate] at h
    split at h
    · rename_i e hstart
      obtain ⟨u, hu, -⟩ | ⟨x, hx, ht⟩ := (complete_eq_next s t _).mp h
      · cases hu
      · cases hx
        exact .inr ⟨x, s.env, raisesListed_modulateStart noise intf gsrc s x hstart, ht⟩
    · rename_i m s1 hstart
      obtain ⟨u, hu, ht⟩ | ⟨e, he, ht⟩ := complete_cases h (raisesListed_modulateFinish noise intf diag m s1)
      · exact .inl ⟨u, ⟨(m, s1), hstart, hu⟩, ht⟩
      · exact .inr ⟨e, s1.env, he, by rw [ht, ← modulateStart_state hstart]⟩

/-! ### The regions a rule writes -/

theorem KeepsElements.refl (out : List Region) (s : State) : KeepsElements out s s :=
  ⟨fun _ _ => ⟨fun _ => rfl, rfl⟩, fun _ _ _ => rfl⟩

theorem KeepsElements.mono {out out' : List Region} {s u : State} (h : KeepsElements out s u)
    (hsub : out ⊆ out') : KeepsElements out' s u :=
  ⟨fun r hr => h.1 r fun hmem => hr (hsub hmem), h.2⟩

/-- Writing one more region, which nothing has written before. -/
theorem KeepsElements.putSeq {out : List Region} {s u : State} (h : KeepsElements out s u) {r : Region}
    (hr : r ∉ out) (ws : List Word) : KeepsElements (r :: out) s (u.putSeq r ws) := by
  obtain ⟨hother, hbeyond⟩ := h
  constructor
  · intro q hq
    obtain ⟨hqr, hqout⟩ : q ≠ r ∧ q ∉ out := by simpa using hq
    obtain ⟨helem, hlen⟩ := hother q hqout
    simp [Ne.symm hqr, helem, hlen]
  · intro q k hk
    by_cases hqr : r = q
    · subst hqr
      have hk' : ¬ k < ws.length := by simpa using hk
      simp [hk', (hother r hr).1 k]
    · have hk' : u.lenOf q ≤ k := by simpa [hqr] using hk
      simp [hqr, hbeyond q k hk']

theorem keepsElements_putSeq (s : State) (r : Region) (ws : List Word) :
    KeepsElements [r] s (s.putSeq r ws) :=
  (KeepsElements.refl [] s).putSeq (by simp) ws

theorem keepsElements_putCorrelations {out : List Region} {s u : State} (h : KeepsElements out s u)
    (hout : Region.corr ∉ out ∧ Region.result ∉ out) (sums : List F64) :
    KeepsElements (.result :: .corr :: out) s (putCorrelations sums u) :=
  (h.putSeq hout.1 sums).putSeq (by simp [hout.2]) _

/-! ### What a rule leaves unchanged -/

/-- `u` differs from `s` in nothing but what command `i` may write (R31 to R45). -/
structure RuleFrame (i : Instr) (s u : State) : Prop where
  errcode : u.errcode = s.errcode
  host : u.irqEn = s.irqEn ∧ u.cmd = s.cmd ∧ u.fs = s.fs ∧ u.fc = s.fc ∧ u.sf = s.sf ∧
    u.tsym = s.tsym ∧ u.snrDb = s.snrDb ∧ u.amp = s.amp ∧ u.phase = s.phase ∧ u.seed = s.seed ∧
    u.frameKind = s.frameKind ∧ u.field = s.field ∧ u.params = s.params
  cmpOk : (∀ src, i ≠ .compare src) → u.cmpOk = s.cmpOk
  cfgValid : u.cfgValid ≠ s.cfgValid → i = .config ∧ u.cfgValid = true
  derived : i ≠ .config → u.tc = s.tc ∧ u.ns = s.ns ∧ u.nss = s.nss
  lfsr : i ≠ .pnSeed → (∀ dst, i ≠ .pnGen dst .lfsr) → u.lfsr = s.lfsr
  dfield : (∀ src, i ≠ .decode src) → (∀ src, i ≠ .compare src) → u.dfield = s.dfield
  cksum : i ≠ .checksum → u.cksum = s.cksum ∧ u.cksumSum = s.cksumSum
  mismatch : (∀ src, i ≠ .compare src) → u.mismatch = s.mismatch
  diag : (∀ noise intf gsrc, i ≠ .modulate noise intf true gsrc) →
    u.diagNormSig = s.diagNormSig ∧ u.diagNormNoise = s.diagNormNoise ∧ u.diagScale = s.diagScale
  regions : KeepsElements (outputsOf i) s u

/-- A rule that writes regions, lengths and draws alone keeps every register. -/
theorem ruleFrame_of_regions {i : Instr} {s : State} (m : Memory) (l : Vector Nat 15) (env : Env)
    (h : KeepsElements (outputsOf i) s { s with mem := m, len := l, env := env }) :
    RuleFrame i s { s with mem := m, len := l, env := env } where
  errcode := rfl
  host := by simp
  cmpOk _ := rfl
  cfgValid hne := absurd rfl hne
  derived _ := ⟨rfl, rfl, rfl⟩
  lfsr _ _ := rfl
  dfield _ _ := rfl
  cksum _ := ⟨rfl, rfl⟩
  mismatch _ := rfl
  diag _ := ⟨rfl, rfl, rfl⟩
  regions := h

/-- A command that writes the one region `r`. -/
theorem ruleFrame_putSeq {i : Instr} {r : Region} (hi : outputsOf i = [r]) (s : State) (ws : List Word) :
    RuleFrame i s (s.putSeq r ws) :=
  ruleFrame_of_regions _ _ _ (hi ▸ keepsElements_putSeq s r ws)

theorem configRule_frame {s u : State} (h : configRule s = .ok u) : RuleFrame .config s u := by
  obtain ⟨-, ns, -, -, rfl⟩ := (configRule_eq_ok s u).mp h
  have base := ruleFrame_putSeq (i := .config) rfl s (carrier s ns)
  exact { base with
    cfgValid := fun _ => ⟨rfl, rfl⟩
    derived := fun hi => absurd rfl hi
    regions := keepsElements_putSeq s .splus (carrier s ns) }

theorem decodeRule_frame {src : BitSource} {s u : State} (h : decodeRule src s = .ok u) :
    RuleFrame (.decode src) s u := by
  obtain ⟨bytes, -, rfl⟩ := (decodeRule_eq_ok src s u).mp h
  have base := ruleFrame_putSeq (i := .decode src) rfl s ((bytes.drop 12).map byteElem)
  exact { base with
    dfield := fun hi _ => absurd rfl (hi src) }

theorem compareRule_frame {src : BitSource} {s u : State} (h : compareRule src s = .ok u) :
    RuleFrame (.compare src) s u := by
  obtain ⟨bytes, -, d, -, rfl⟩ := (compareRule_eq_ok src s u).mp h
  have base := ruleFrame_putSeq (i := .compare src) rfl s ((bytes.drop 12).map byteElem)
  exact { base with
    cmpOk := fun hi => absurd rfl (hi src)
    dfield := fun _ hi => absurd rfl (hi src)
    mismatch := fun hi => absurd rfl (hi src) }

theorem checksumRule_frame {s u : State} (h : checksumRule s = .ok u) : RuleFrame .checksum s u := by
  obtain ⟨-, rfl⟩ := (checksumRule_eq_ok s u).mp h
  have base := ruleFrame_of_regions s.mem s.len s.env (KeepsElements.refl (outputsOf .checksum) s)
  exact { base with cksum := fun hi => absurd rfl hi }

theorem pnSeed_frame (s : State) : RuleFrame .pnSeed s { s with lfsr := s.seed } := by
  have base := ruleFrame_of_regions s.mem s.len s.env (KeepsElements.refl (outputsOf .pnSeed) s)
  exact { base with lfsr := fun hi => absurd rfl hi }

theorem pnGenRule_frame {dst : CodeSel} {src : PnSource} {s u : State}
    (h : pnGenRule dst src s = .ok u) : RuleFrame (.pnGen dst src) s u := by
  obtain ⟨-, rfl⟩ := (pnGenRule_eq_ok dst src s u).mp h
  have base := ruleFrame_putSeq (i := .pnGen dst src) rfl s
    ((pnCode src s.sf.toInt.toNat s).1.map bitElem)
  cases src with
  | lfsr => exact { base with lfsr := fun _ hi => absurd rfl (hi dst) }
  | entropy => exact ruleFrame_of_regions _ _ _ base.regions

theorem RuleFrame.putDiagnostics {noise intf : Bool} {gsrc : GaussSource} {s u : State}
    (h : RuleFrame (.modulate noise intf true gsrc) s u) (b : Bool) (w g : List F64) (x : F64) :
    RuleFrame (.modulate noise intf true gsrc) s (putDiagnostics b w g x u) :=
  { h with diag := fun hi => absurd rfl (hi noise intf gsrc) }

theorem modulate_frame {noise intf diag : Bool} {gsrc : GaussSource} {s u : State}
    (h : RuleSucceeds (.modulate noise intf diag gsrc) s u) :
    RuleFrame (.modulate noise intf diag gsrc) s u := by
  obtain ⟨⟨m, s1⟩, hstart, hfinish⟩ := h
  have hs1 : s1 = { s with env := s1.env } := modulateStart_state hstart
  obtain ⟨sc, -, xs, -, rfl⟩ := (modulateFinish_eq_ok noise intf diag m s1 u).mp hfinish
  generalize s1.env = env at hs1
  subst hs1
  have hout (out : List F64) : RuleFrame (.modulate noise intf diag gsrc) s
      (({ s with env := env }.putSeq .tx out).putSeq .ref m.ref) :=
    ruleFrame_of_regions _ _ _ <|
      ((keepsElements_putSeq s .tx out).putSeq (by decide) m.ref).mono (by simp [outputsOf])
  cases diag with
  | false => exact hout _
  | true => exact (hout _).putDiagnostics _ _ _ _

/-- DEMOD and DEMOD_WRONG, which writes what DEMOD does (R203). -/
theorem demodRule_frame {i : Instr} (hi : outputsOf i = [.desp, .corr, .result]) {sel : CodeSel}
    {x : WaveSel} {s u : State} (h : demodRule sel x s = .ok u) : RuleFrame i s u := by
  obtain ⟨-, -, -, -, d, -, ref, -, rfl⟩ := (demodRule_eq_ok sel x s u).mp h
  refine ruleFrame_of_regions _ _ _ (hi ▸ ?_)
  exact (keepsElements_putCorrelations (keepsElements_putSeq s .desp d) (by decide) _).mono (by simp)

theorem ruleSucceeds_frame {i : Instr} {s u : State} (h : RuleSucceeds i s u) : RuleFrame i s u := by
  cases i with
  | nop =>
    cases h
    exact ruleFrame_of_regions s.mem s.len s.env (KeepsElements.refl _ s)
  | config => exact configRule_frame h
  | pnSeed =>
    cases h
    exact pnSeed_frame s
  | encode =>
    obtain ⟨-, text, -, -, rfl⟩ := (encodeRule_eq_ok s u).mp h
    exact ruleFrame_putSeq rfl s _
  | decode src => exact decodeRule_frame h
  | checksum => exact checksumRule_frame h
  | compare src => exact compareRule_frame h
  | pnGen dst src => exact pnGenRule_frame h
  | spread sel =>
    obtain ⟨-, -, -, bits, -, code, -, rfl⟩ := (spreadRule_eq_ok sel s u).mp h
    exact ruleFrame_putSeq rfl s _
  | modulate noise intf diag gsrc => exact modulate_frame h
  | refgen x =>
    obtain ⟨-, -, splus, -, rfl⟩ := (refgenRule_eq_ok x s u).mp h
    exact ruleFrame_putSeq rfl s _
  | despread sel x =>
    obtain ⟨-, -, -, d, -, rfl⟩ := (despreadRule_eq_ok sel x s u).mp h
    exact ruleFrame_putSeq rfl s _
  | correlate =>
    obtain ⟨-, -, ref, -, desp, -, rfl⟩ := (correlateRule_eq_ok s u).mp h
    exact ruleFrame_of_regions _ _ _ <|
      (keepsElements_putCorrelations (KeepsElements.refl [] s) (by decide) _).mono (by simp [outputsOf])
  | demod sel x => exact demodRule_frame rfl h
  | demodWrong x => exact demodRule_frame rfl h

/-- What a completed command leaves unchanged. -/
theorem exec_frame {i : Instr} {s t : State} (h : exec i s = .next t) :
    (∃ u, RuleFrame i s u ∧ t = completeOk u) ∨
      ∃ e u, CmdError.listed e ∧ RuleFrame i s u ∧ t = takeError e u :=
  (exec_cases h).imp (fun ⟨u, hu, ht⟩ => ⟨u, ruleSucceeds_frame hu, ht⟩)
    fun ⟨e, env, he, ht⟩ =>
      ⟨e, _, he, ruleFrame_of_regions s.mem s.len env (KeepsElements.refl _ s), ht⟩

/-- Settles O12: the completion writes BUSY, DONE, ERR and ERRCODE, and the frame of the rule says who
writes the other two flags. -/
theorem flagsHaveOneWriter : Obligations.FlagsHaveOneWriter := by
  intro i s t h
  have hcmp {u : State} (hu : RuleFrame i s u) (hne : u.cmpOk ≠ s.cmpOk) : ∃ src, i = .compare src := by
    by_contra hi
    exact hne (hu.cmpOk fun src hsrc => hi ⟨src, hsrc⟩)
  obtain ⟨u, hu, rfl⟩ | ⟨e, u, he, hu, rfl⟩ := exec_frame h
  · exact ⟨rfl, rfl, .inl ⟨rfl, hu.errcode⟩, hcmp (u := u) hu, hu.cfgValid⟩
  · exact ⟨rfl, rfl, .inr ⟨rfl, e, he, rfl⟩, hcmp (u := u) hu, hu.cfgValid⟩

/-- Settles O13: completion writes no register but the flags and ERRCODE, so the frame of the rule is that
of the command. -/
theorem registersHaveTheirWriters : Obligations.RegistersHaveTheirWriters := by
  intro i s t h
  obtain ⟨u, hu, rfl⟩ | ⟨e, u, -, hu, rfl⟩ := exec_frame h
  · exact ⟨hu.host, hu.derived, hu.lfsr, hu.dfield, hu.cksum, hu.mismatch, hu.diag⟩
  · exact ⟨hu.host, hu.derived, hu.lfsr, hu.dfield, hu.cksum, hu.mismatch, hu.diag⟩

/-- Settles O14: completion writes no region, so the regions of the command are those of its rule. -/
theorem commandsWriteOnlyTheirRegions : Obligations.CommandsWriteOnlyTheirRegions := by
  intro i s t h
  obtain ⟨u, hu, rfl⟩ | ⟨e, u, -, hu, rfl⟩ := exec_frame h
  · exact hu.regions
  · exact hu.regions

end Sys2Proof.Machine
end

section
/-! The buffer memory as the invariant sees it: a canonical buffer is determined by its reads, and a
sequence or a single element written within capacity keeps the regions well formed (10_state.md R40 to
R42). -/

namespace Sys2Proof.Machine

/-! ### A canonical buffer is what is read of it -/

/-- In a canonical buffer, to read a word at an index is to hold that cell. -/
theorem bufRead_eq_some_iff {b : Buffer} (hs : b.Pairwise fun c d : Cell => c.1 < d.1) (k : Nat) (w : Word) :
    bufRead b k = some w ↔ (k, w) ∈ b := by
  induction b with
  | nil => simp [bufRead]
  | cons c rest ih =>
    obtain ⟨j, v⟩ := c
    obtain ⟨hj, hrest⟩ := List.pairwise_cons.mp hs
    by_cases hjk : j = k
    · subst hjk
      have hnot : (j, w) ∉ rest := fun hmem => lt_irrefl j (hj _ hmem)
      simp [bufRead, hnot, eq_comm]
    · simp [bufRead, hjk, Ne.symm hjk, ih hrest]

theorem buffer_eq_of_reads {b c : Buffer} (hb : Buffer.sorted b = true) (hc : Buffer.sorted c = true)
    (h : ∀ k, bufRead b k = bufRead c k) : b = c := by
  rw [Buffer.sorted_iff] at hb hc
  refine hb.eq_of_mem_iff hc fun ⟨k, w⟩ => ?_
  rw [← bufRead_eq_some_iff hb, ← bufRead_eq_some_iff hc, h]

/-- Settles O57: each region's buffer is determined by its reads, and the memory by its buffers. -/
theorem canonicalMemoriesAreEqual : Obligations.CanonicalMemoriesAreEqual := by
  intro s t hs ht h
  rw [Memory.wf_iff] at hs ht
  refine Vector.ext fun i hi => ?_
  obtain ⟨r, hr⟩ := Region.exists_idx ⟨i, hi⟩
  have hbuf : s.mem.buffer r = t.mem.buffer r := buffer_eq_of_reads (hs r) (ht r) (h r)
  simpa [Memory.buffer, hr] using hbuf

/-! ### What a region can hold -/

/-- `w` holds only the bits that an element of `r` stores (R41). -/
theorem storedBits_lt (r : Region) (w : Word) : (storedBits r w).toNat < 2 ^ r.width := by
  have hmod : w.toNat % 2 ^ r.width < 2 ^ r.width := Nat.mod_lt _ (by positivity)
  rw [storedBits, BitVec.toNat_ofNat]
  exact lt_of_le_of_lt (Nat.mod_le _ _) hmod

theorem bitElem_lt (b : Bool) : (bitElem b).toNat < 2 ^ 1 := by
  cases b <;> decide

theorem byteElem_lt (u : Nat) : (byteElem u).toNat < 2 ^ 8 := by
  simp only [byteElem, BitVec.toNat_ofNat]
  omega

end Sys2Proof.Machine
end

section
/-! The invariant of 10_state.md: it holds after reset, and every input the block can take keeps it. -/

namespace Sys2Proof.Machine

/-! ### The invariant under the shared operations -/

theorem cap_le {s : State} (hi : s.Inv) (r : Region) : s.cap r ≤ 2 ^ 20 := by
  obtain ⟨⟨-, hbits⟩, htext, ⟨-, hcode⟩, ⟨-, hchips⟩, ⟨-, hsamples⟩, ⟨-, hsyms⟩, hdtext, -, hns⟩ := hi.caps
  cases r <;> assumption

theorem inv_withEnv {s : State} (hi : s.Inv) (env : Env) : State.Inv { s with env := env } :=
  { hi with }

theorem inv_completeOk {s : State} (hi : s.Inv) : (completeOk s).Inv :=
  { hi with pending := fun hb => by simp at hb }

theorem inv_takeError {s : State} (hi : s.Inv) {e : CmdError} (he : e.listed) : (takeError e s).Inv :=
  { hi with
    pending := fun hb => by simp at hb
    errcode := .inr ⟨e, he, rfl⟩ }

theorem inv_issue {s : State} (hi : s.Inv) (w : Word) : (issue w s).Inv :=
  { hi with
    pending := fun _ => ⟨rfl, rfl, rfl⟩
    errcode := .inl rfl }

@[simp] theorem cap_putSeq (s : State) (r q : Region) (ws : List Word) :
    (s.putSeq r ws).cap q = s.cap q := rfl

/-- New buffers and lengths keep the invariant when they are within the capacities and leave SPLUS alone. -/
theorem inv_of_regions {s : State} (hi : s.Inv) {m : Memory} {l : Vector Nat 15} {t : State}
    (ht : t = { s with mem := m, len := l }) (hcanonical : m.wf = true)
    (helements : ∀ r i w, t.elem r i = some w → i < s.cap r ∧ w.toNat < 2 ^ r.width)
    (hlengths : ∀ r, t.lenOf r ≤ s.cap r)
    (hsplus : t.lenOf .splus = s.lenOf .splus ∧ ∀ i, t.elem .splus i = s.elem .splus i) : t.Inv := by
  obtain ⟨hlen, helem⟩ := hsplus
  have hsamples (n : Nat) : t.samples .splus n = s.samples .splus n := by
    simp [State.samples, State.sampleAt, helem]
  obtain ⟨hns, hfinite⟩ := hi.splus
  subst ht
  exact { hi with
    canonical := hcanonical
    elements := helements
    lengths := hlengths
    splus := ⟨hns.trans hlen.symm, fun i hk => by rw [helem]; exact hfinite i (hlen ▸ hk)⟩
    config := fun hc => by rw [hsamples]; exact hi.config hc }

theorem inv_putLen {s : State} (hi : s.Inv) {r : Region} (hr : r ≠ .splus) {n : Nat} (hn : n ≤ s.cap r) :
    (s.putLen r n).Inv := by
  refine inv_of_regions hi rfl hi.canonical hi.elements (fun q => ?_) ⟨by simp [hr], fun _ => rfl⟩
  rw [lenOf_putLen]
  split
  · next hq => exact hq ▸ hn
  · exact hi.lengths q

theorem inv_putElem {s : State} (hi : s.Inv) {r : Region} (hr : r ≠ .splus) {i : Nat} (hk : i < s.cap r)
    {v : Word} (hv : v.toNat < 2 ^ r.width) : (s.putElem r i v).Inv := by
  refine inv_of_regions hi rfl (putElem_wf s r i v hi.canonical) (fun q k w hw => ?_) hi.lengths
    ⟨rfl, fun _ => by simp [hr]⟩
  rw [elem_putElem] at hw
  split at hw
  · next hq =>
    obtain ⟨rfl, rfl⟩ := hq
    cases hw
    exact ⟨hk, hv⟩
  · exact hi.elements q k w hw

/-- A sequence within capacity keeps every written element within its region's capacity and width. -/
theorem elements_putSeq {s : State} (hi : s.Inv) {r : Region} {ws : List Word} (hlen : ws.length ≤ s.cap r)
    (hws : ∀ w ∈ ws, w.toNat < 2 ^ r.width) (q : Region) (k : Nat) (w : Word)
    (hw : (s.putSeq r ws).elem q k = some w) : k < s.cap q ∧ w.toNat < 2 ^ q.width := by
  rw [elem_putSeq] at hw
  split at hw
  · next hq =>
    obtain ⟨rfl, hk⟩ := hq
    exact ⟨by omega, hws w (List.mem_of_getElem? hw)⟩
  · exact hi.elements q k w hw

theorem lengths_putSeq {s : State} (hi : s.Inv) {r : Region} {ws : List Word} (hlen : ws.length ≤ s.cap r)
    (q : Region) : (s.putSeq r ws).lenOf q ≤ s.cap q := by
  rw [lenOf_putSeq]
  split
  · next hq => exact hq ▸ hlen
  · exact hi.lengths q

theorem inv_putSeq {s : State} (hi : s.Inv) {r : Region} (hr : r ≠ .splus) {ws : List Word}
    (hlen : ws.length ≤ s.cap r) (hws : ∀ w ∈ ws, w.toNat < 2 ^ r.width) : (s.putSeq r ws).Inv :=
  inv_of_regions hi rfl (putSeq_wf s r ws hi.canonical) (elements_putSeq hi hlen hws)
    (lengths_putSeq hi hlen) ⟨by simp [hr], fun _ => by simp [hr]⟩

/-- A region of Bit or Bip elements takes any bits. -/
theorem inv_putSeq_bits {s : State} (hi : s.Inv) {r : Region} (hwidth : r.width = 1) {bs : List Bool}
    (hlen : bs.length ≤ s.cap r) : (s.putSeq r (bs.map bitElem)).Inv := by
  refine inv_putSeq hi (fun hr => by simp [hr, Region.width] at hwidth) (by simpa using hlen)
    fun w hw => ?_
  obtain ⟨b, -, rfl⟩ := List.mem_map.mp hw
  exact hwidth ▸ bitElem_lt b

/-- A region of Sample elements takes any words. -/
theorem inv_putSeq_samples {s : State} (hi : s.Inv) {r : Region} (hr : r ≠ .splus) (hwidth : r.width = 64)
    {xs : List F64} (hlen : xs.length ≤ s.cap r) : (s.putSeq r xs).Inv :=
  inv_putSeq hi hr hlen fun w _ => by
    rw [hwidth]
    exact w.isLt

/-! ### Reset -/

theorem elem_resetWith (p : Params) (e : Env) (r : Region) (k : Nat) :
    (State.resetWith p e).elem r k = none := by
  simp [State.elem, State.resetWith, Memory.buffer, bufRead]

theorem lenOf_resetWith (p : Params) (e : Env) (r : Region) : (State.resetWith p e).lenOf r = 0 := by
  simp [State.lenOf, State.resetWith]

/-- The invariant holds after a reset, whatever the well-formed parameters. -/
theorem inv_resetWith {p : Params} (hp : p.WellFormed) (e : Env) : (State.resetWith p e).Inv where
  caps := hp.1
  placement := hp.2
  canonical := resetWith_mem_wf p e
  elements r i w hw := by simp [elem_resetWith] at hw
  lengths r := by simp [lenOf_resetWith]
  lfsr := by simp [State.resetWith]
  seed := by simp [State.resetWith]
  pending hb := by simp [State.resetWith] at hb
  errcode := .inl rfl
  dfields k := by simp [State.resetWith]
  checksum := by simp [State.resetWith]
  splus := ⟨by simp [lenOf_resetWith]; rfl, fun i hk => by simp [lenOf_resetWith] at hk⟩
  config hc := by simp [State.resetWith] at hc

/-- Settles O55: the reference parameters are well formed. -/
theorem invariantAtReset : Obligations.InvariantAtReset :=
  inv_resetWith (by decide) Env.empty

/-! ### The host's transactions -/

theorem seedStored_ne_zero (w : Word) : seedStored w ≠ 0 := by
  rw [seedStored]
  split
  · decide
  · assumption

theorem inv_csrWrite {s t : State} (hi : s.Inv) (hb : s.busy = false) {w : Word} {c : Csr}
    (h : csrWrite w s c = some t) : t.Inv := by
  cases c with
  | id | errcode | tc | ns | nss | lfsr | cap _ | dfield _ | cksum | cksumSum | mismatch | diagNormSig
  | diagNormNoise | diagScale => cases h
  | ctrl | snrDb | frameKind | field _ =>
    cases h
    exact { hi with }
  | fs | fc | sf | tsym | amp | phase =>
    cases h
    exact { hi with config := fun hc => Bool.noConfusion hc }
  | status =>
    cases h
    exact { hi with pending := fun hbusy => by simp [hb] at hbusy }
  | cmd =>
    cases h
    exact inv_issue hi w
  | seed =>
    cases h
    exact { hi with seed := seedStored_ne_zero w }
  | len r =>
    simp only [csrWrite] at h
    split at h
    · cases h
    · next hr =>
      split at h
      · cases h
      · next hcap =>
        cases h
        exact inv_putLen hi hr (by omega)

theorem inv_busWrite {s t : State} (hi : s.Inv) {a : BusAddr} {w : Word} (h : busWrite a w s = .next t) :
    t.Inv := by
  obtain ⟨hb, ⟨-, c, -, hc⟩ | ⟨r, -, hr, hk, rfl⟩⟩ := busWrite_eq_next a w s t h
  · exact inv_csrWrite hi hb hc
  · exact inv_putElem hi hr hk (storedBits_lt r w)

theorem inv_busRead {s t : State} (hi : s.Inv) {a : BusAddr} (h : busRead a s = .next t) : t.Inv := by
  obtain ⟨w, rfl⟩ := busRead_eq_next a s t h
  exact inv_withEnv hi _

theorem inv_hostAccess {transaction : BusAddr → State → Host.Outcome State Fault Refusal} {s t : State}
    (hi : s.Inv) (htr : ∀ a, transaction a s = .next t → t.Inv) {h : Nat}
    (hs : hostAccess transaction h s = .next t) : t.Inv := by
  obtain ⟨-, rfl⟩ | ⟨-, a, -, ha⟩ := (hostAccess_eq_next transaction h s t).mp hs
  · exact hi
  · exact htr a ha

/-! ### The commands -/

/-- The generator never reaches 0: the bit it shifts out of 1 comes back as bit 15 (R160, R161). -/
theorem lfsrStep_ne_zero {x : BitVec 16} (hx : x ≠ 0) : (lfsrStep x).2 ≠ 0 := by
  intro h
  obtain ⟨hshift, hfb⟩ := BitVec.or_eq_zero_iff.mp h
  have hlt : x.toNat / 2 = 0 := by simpa [Nat.shiftRight_eq_div_pow] using congrArg BitVec.toNat hshift
  have hx1 : x = 1#16 := by
    have hne : x.toNat ≠ 0 := fun h0 => hx (BitVec.eq_of_toNat_eq h0)
    exact BitVec.eq_of_toNat_eq (by simp; omega)
  subst hx1
  exact absurd hfb (by decide)

theorem lfsrRun_ne_zero (n : Nat) {x : BitVec 16} (hx : x ≠ 0) : (lfsrRun n x).2 ≠ 0 := by
  induction n generalizing x with
  | zero => exact hx
  | succ n ih => exact ih (lfsrStep_ne_zero hx)

theorem byteOfBits_lt (b7 b6 b5 b4 b3 b2 b1 b0 : Bool) : byteOfBits b7 b6 b5 b4 b3 b2 b1 b0 < 256 := by
  have h7 := b7.toNat_le
  have h6 := b6.toNat_le
  have h5 := b5.toNat_le
  have h4 := b4.toNat_le
  have h3 := b3.toNat_le
  have h2 := b2.toNat_le
  have h1 := b1.toNat_le
  have h0 := b0.toNat_le
  simp only [byteOfBits]
  omega

/-- What DECODE reads are bytes, one for each whole group of eight bits (R132). -/
theorem bytesOf_spec (bs : List Bool) : 8 * (bytesOf bs).length ≤ bs.length ∧ ∀ u ∈ bytesOf bs, u < 256 := by
  induction bs using bytesOf.induct with
  | case1 b7 b6 b5 b4 b3 b2 b1 b0 rest ih =>
    obtain ⟨hlen, hlt⟩ := ih
    refine ⟨by simp only [bytesOf, List.length_cons]; omega, fun u hu => ?_⟩
    obtain rfl | hu := List.mem_cons.mp hu
    · exact byteOfBits_lt b7 b6 b5 b4 b3 b2 b1 b0
    · exact hlt u hu
  | case2 bs hshort => simp [bytesOf]

/-- A byte as a decoded field is an `s8` (R38, R132). -/
theorem toInt_fieldValue {u : Nat} (hu : u < 256) :
    -128 ≤ (fieldValue u).toInt ∧ (fieldValue u).toInt ≤ 127 := by
  rw [fieldValue, BitVec.toInt_ofInt]
  split <;> simp only [Int.bmod] <;> omega

theorem decodedFields_s8 {bytes : List Nat} (hbytes : ∀ u ∈ bytes, u < 256) (k : Fin 12) :
    -128 ≤ (decodedFields bytes)[k].toInt ∧ (decodedFields bytes)[k].toInt ≤ 127 := by
  have hbyte (j : Nat) : bytes.getD j 0 < 256 := by
    rw [List.getD_eq_getElem?_getD]
    cases hj : bytes[j]? with
    | none => decide
    | some u => exact hbytes u (List.mem_of_getElem? hj)
  have hfield : (decodedFields bytes)[k] = fieldValue (bytes.getD k 0) := by fin_cases k <;> rfl
  rw [hfield]
  exact toInt_fieldValue (hbyte k)

theorem checksumSum_le (s : State) : checksumSum s ≤ 3060 := by
  have hbyte : ∀ u ∈ fieldBytes s, u ≤ 255 := by
    intro u hu
    obtain ⟨v, -, rfl⟩ := List.mem_map.mp hu
    simp only [fieldByte]
    omega
  simpa [checksumSum] using List.sum_le_card_nsmul (fieldBytes s) 255 hbyte

/-- CONFIG leaves the carrier it has computed as the samples of SPLUS. -/
theorem elem_configured (s : State) {ns k : Nat} (hk : k < ns) :
    (configured s ns).elem .splus k = some (carrierSample s k) := by
  change (s.putSeq .splus (carrier s ns)).elem .splus k = _
  simp [hk, carrier]

theorem lenOf_configured (s : State) (ns : Nat) : (configured s ns).lenOf .splus = ns := by
  change (s.putSeq .splus (carrier s ns)).lenOf .splus = _
  simp

theorem samples_configured (s : State) (ns : Nat) : (configured s ns).samples .splus ns = carrier s ns := by
  refine List.map_congr_left fun k hk => ?_
  rw [State.sampleAt, elem_configured s (List.mem_range.mp hk), Option.getD_some]

/-- The checks of CONFIG are what the invariant says of a current configuration (R111). -/
theorem inv_configured {s : State} (hi : s.Inv) {ns : Nat} (hsf : 1 ≤ s.sf.toInt)
    (hsfcap : s.sf.toInt ≤ s.cap .codeA) (hns : 1 ≤ ns) (hcap : ns ≤ s.cap .splus)
    (hdeg : carrierDegenerate (carrier s ns) = false) : (configured s ns).Inv := by
  have hcode := cap_le hi .codeA
  have hsplus := cap_le hi .splus
  have hsfNat : s.sf.toInt = s.sf.toNat := by
    rw [BitVec.toInt_eq_toNat_cond] at hsf ⊢
    split at hsf <;> omega
  have hprod : ns * s.sf.toNat ≤ 2 ^ 20 * 2 ^ 20 := Nat.mul_le_mul (by omega) (by omega)
  have hnsNat : (configured s ns).ns.toNat = ns := Nat.mod_eq_of_lt (by omega)
  have hnssNat : (configured s ns).nss.toNat = ns * s.sf.toNat := Nat.mod_eq_of_lt (by omega)
  have hlen := lenOf_configured s ns
  obtain ⟨hfinite, hnorm⟩ : (∀ x ∈ carrier s ns, isFinite x = true) ∧
      isZero (norm (carrier s ns)) = false := by simpa [carrierDegenerate] using hdeg
  have hroom : (carrier s ns).length ≤ s.cap .splus := by simpa using hcap
  exact { hi with
    canonical := putSeq_wf s .splus _ hi.canonical
    elements := elements_putSeq hi hroom fun w _ => w.isLt
    lengths := lengths_putSeq hi hroom
    splus := by
      refine ⟨hnsNat.trans hlen.symm, fun i hk => ?_⟩
      rw [hlen] at hk
      exact ⟨_, elem_configured s hk, hfinite _ (List.mem_map.mpr ⟨i, List.mem_range.mpr hk, rfl⟩)⟩
    config := fun _ => by
      rw [hnsNat, hnssNat, samples_configured]
      exact ⟨hsf, hsfcap, hns, by rw [Nat.cast_mul]; exact congrArg _ hsfNat.symm, hnorm⟩ }

theorem inv_configRule {s u : State} (hi : s.Inv) (h : configRule s = .ok u) : u.Inv := by
  obtain ⟨hinputs, ns, hcount, hdeg, rfl⟩ := (configRule_eq_ok s u).mp h
  obtain ⟨hsf, hsfcap, -⟩ := (configInputs_eq_ok s ()).mp hinputs
  obtain ⟨-, hpos, hcap, hns⟩ := (configCount_eq_ok s ns).mp hcount
  exact inv_configured hi hsf hsfcap (by omega) (by omega) hdeg

theorem inv_encodeRule {s u : State} (hi : s.Inv) (h : encodeRule s = .ok u) : u.Inv := by
  obtain ⟨-, text, htext, hcap, rfl⟩ := (encodeRule_eq_ok s u).mp h
  obtain ⟨hlen, -⟩ := scanText_ok s 0 _ text htext
  exact inv_putSeq_bits hi rfl (by simpa [hlen] using hcap)

/-- The writes that DECODE and COMPARE share: bytes in DTEXT, within its capacity, and `s8` fields. -/
theorem inv_decodedInto {s : State} (hi : s.Inv) {src : BitSource} {bytes : List Nat}
    (h : decodeBytes src s = .ok bytes) : (decodedInto s bytes).Inv := by
  obtain ⟨hcheck, els, hels, rfl⟩ := (decodeBytes_eq_ok src s bytes).mp h
  obtain ⟨-, -, hcap⟩ := (checkFrameLength_eq_ok s _ ()).mp hcheck
  obtain ⟨hlen, -⟩ := readSeq_ok s _ _ els hels
  obtain ⟨hbytes, hlt⟩ := bytesOf_spec (els.map elemBit)
  rw [List.length_map, hlen] at hbytes
  have htext := inv_putSeq hi (r := .dtext)
    (ws := ((bytesOf (els.map elemBit)).drop 12).map byteElem) (by decide)
    (by rw [List.length_map, List.length_drop]; omega)
    fun w hw => by
      obtain ⟨u, -, rfl⟩ := List.mem_map.mp hw
      exact byteElem_lt u
  exact { htext with dfields := decodedFields_s8 hlt }

theorem inv_decodeRule {src : BitSource} {s u : State} (hi : s.Inv) (h : decodeRule src s = .ok u) :
    u.Inv := by
  obtain ⟨bytes, hbytes, rfl⟩ := (decodeRule_eq_ok src s u).mp h
  exact inv_decodedInto hi hbytes

theorem inv_compareRule {src : BitSource} {s u : State} (hi : s.Inv) (h : compareRule src s = .ok u) :
    u.Inv := by
  obtain ⟨bytes, hbytes, d, -, rfl⟩ := (compareRule_eq_ok src s u).mp h
  exact { inv_decodedInto hi hbytes with }

theorem inv_checksumRule {s u : State} (hi : s.Inv) (h : checksumRule s = .ok u) : u.Inv := by
  obtain ⟨-, rfl⟩ := (checksumRule_eq_ok s u).mp h
  have hle := checksumSum_le s
  exact { hi with
    checksum := by
      simp only [BitVec.toNat_ofNat]
      omega }

theorem inv_pnCode {s : State} (hi : s.Inv) (src : PnSource) (n : Nat) : (pnCode src n s).2.Inv := by
  cases src with
  | lfsr => exact { hi with lfsr := lfsrRun_ne_zero n hi.lfsr }
  | entropy => exact inv_withEnv hi _

theorem pnCode_length (src : PnSource) (n : Nat) (s : State) : (pnCode src n s).1.length = n := by
  cases src with
  | lfsr => exact lfsrRun_length n s.lfsr
  | entropy => exact drawEntropy_length n s

theorem pnCode_params (src : PnSource) (n : Nat) (s : State) : (pnCode src n s).2.params = s.params := by
  cases src <;> rfl

/-- The code fits its region because a current configuration has SF within it (R162, R111). -/
theorem inv_pnGenRule {dst : CodeSel} {src : PnSource} {s u : State} (hi : s.Inv)
    (h : pnGenRule dst src s = .ok u) : u.Inv := by
  obtain ⟨hcfg, rfl⟩ := (pnGenRule_eq_ok dst src s u).mp h
  obtain ⟨-, hsf, -⟩ := hi.config hcfg
  have hcap : s.cap (codeRegion dst) = s.cap .codeA := by cases dst <;> rfl
  refine inv_putSeq_bits (inv_pnCode hi src _) (by cases dst <;> rfl) ?_
  rw [pnCode_length, State.cap, pnCode_params, ← State.cap, hcap]
  omega

theorem inv_spreadRule {sel : CodeSel} {s u : State} (hi : s.Inv) (h : spreadRule sel s = .ok u) :
    u.Inv := by
  obtain ⟨-, -, hcap, bits, hbits, code, hcode, rfl⟩ := (spreadRule_eq_ok sel s u).mp h
  obtain ⟨hbitsLen, -⟩ := readSeq_ok s _ _ bits hbits
  obtain ⟨hcodeLen, -⟩ := readSeq_ok s _ _ code hcode
  refine inv_putSeq_bits hi rfl (le_trans ?_ hcap)
  rw [spreadChips_length, List.length_map, List.length_map, hbitsLen, hcodeLen]
  exact Nat.mul_le_mul_left _ (by split <;> omega)

theorem readSplus_length {s : State} {chips : Nat} {sp : List F64} (h : readSplus s chips = .ok sp) :
    chips * sp.length = chips * s.ns.toNat := by
  obtain ⟨hlen, -⟩ := readSeq_ok s _ _ sp h
  rw [hlen]
  split
  · next h0 => simp [h0]
  · rfl

theorem inv_refgenRule {x : WaveSel} {s u : State} (hi : s.Inv) (h : refgenRule x s = .ok u) : u.Inv := by
  obtain ⟨-, -, sp, hsp, rfl⟩ := (refgenRule_eq_ok x s u).mp h
  refine inv_putSeq_samples hi (by decide) rfl ?_
  rw [referenceCarrier_length, readSplus_length hsp]
  calc s.lenOf (waveRegion x) / s.ns.toNat * s.ns.toNat
      _ ≤ s.lenOf (waveRegion x) := Nat.div_mul_le_self _ _
      _ ≤ s.cap (waveRegion x) := hi.lengths _
      _ = s.cap .ref := by cases x <;> rfl

/-- The despread waveform is no longer than the waveform it is made of. -/
theorem inv_putDespread {sel : CodeSel} {x : WaveSel} {s : State} (hi : s.Inv) {d : List F64}
    (h : despreadData sel x s = .ok d) : (s.putSeq .desp d).Inv := by
  obtain ⟨code, -, wave, hwave, rfl⟩ := (despreadData_eq_ok sel x s d).mp h
  obtain ⟨hlen, -⟩ := readSeq_ok s _ _ wave hwave
  refine inv_putSeq_samples hi (by decide) rfl ?_
  calc (despreadWave (code.map elemBit) _ _ _ wave).length
      _ ≤ wave.length := by rw [despreadWave, List.length_zipWith]; exact Nat.min_le_right _ _
      _ = s.lenOf (waveRegion x) := hlen
      _ ≤ s.cap (waveRegion x) := hi.lengths _
      _ = s.cap .desp := by cases x <;> rfl

theorem inv_despreadRule {sel : CodeSel} {x : WaveSel} {s u : State} (hi : s.Inv)
    (h : despreadRule sel x s = .ok u) : u.Inv := by
  obtain ⟨-, -, -, d, hd, rfl⟩ := (despreadRule_eq_ok sel x s u).mp h
  exact inv_putDespread hi hd

theorem inv_putCorrelations {s : State} (hi : s.Inv) {sums : List F64} (hcap : sums.length ≤ s.cap .result) :
    (putCorrelations sums s).Inv := by
  have hcorr : (s.putSeq .corr sums).Inv := inv_putSeq_samples hi (by decide) rfl hcap
  have hresult := inv_putSeq_bits hcorr (r := .result) (bs := sums.map decision) rfl (by simpa using hcap)
  rwa [List.map_map] at hresult

theorem inv_correlateRule {s u : State} (hi : s.Inv) (h : correlateRule s = .ok u) : u.Inv := by
  obtain ⟨-, hchecks, ref, -, desp, -, rfl⟩ := (correlateRule_eq_ok s u).mp h
  obtain ⟨-, -, hcap⟩ := (correlateChecks_eq_ok _ s ()).mp hchecks
  exact inv_putCorrelations hi (by simpa using hcap)

theorem inv_demodRule {sel : CodeSel} {x : WaveSel} {s u : State} (hi : s.Inv)
    (h : demodRule sel x s = .ok u) : u.Inv := by
  obtain ⟨-, -, -, hchecks, d, hd, ref, -, rfl⟩ := (demodRule_eq_ok sel x s u).mp h
  obtain ⟨-, -, hcap⟩ := (correlateChecks_eq_ok _ s ()).mp hchecks
  exact inv_putCorrelations (inv_putDespread hi hd) (by simpa using hcap)

/-- What MODULATE has built before the noise is as long as its rule says (R181). -/
theorem modulateStart_lengths {noise intf : Bool} {gsrc : GaussSource} {s : State}
    {p : Modulated × State} (h : modulateStart noise intf gsrc s = .ok p) :
    modulateLength s ≤ s.cap .tx ∧ p.1.wave.length = modulateLength s ∧
      p.1.ref.length = modulateLength s := by
  have key {chips : List Word} {sp : List F64} (hchecks : modulateChecks noise intf gsrc s = .ok ())
      (hchips : readAll s .chips = .ok chips) (hsp : readSplus s (s.lenOf .chips) = .ok sp) :
      modulateLength s ≤ s.cap .tx ∧
        (chipWaveform (chips.map elemBit) sp).length = modulateLength s ∧
        (referenceCarrier (s.lenOf .chips) sp).length = modulateLength s := by
    obtain ⟨-, hcap, -⟩ := (modulateChecks_eq_ok noise intf gsrc s ()).mp hchecks
    obtain ⟨hlen, -⟩ := readSeq_ok s _ _ chips hchips
    have hsplus := readSplus_length hsp
    exact ⟨hcap, by rw [chipWaveform_length, List.length_map, hlen]; exact hsplus,
      by rw [referenceCarrier_length]; exact hsplus⟩
  cases noise with
  | false =>
    obtain ⟨hchecks, chips, hchips, sp, hsp, rfl⟩ := (modulateStart_clean_eq_ok intf gsrc s p).mp h
    exact key hchecks hchips hsp
  | true =>
    obtain ⟨hchecks, chips, hchips, sp, hsp, -, -, -, g, -, rfl⟩ :=
      (modulateStart_noise_eq_ok intf gsrc s p).mp h
    exact key hchecks hchips hsp

theorem addWaves_length_le (xs ys : List F64) : (addWaves xs ys).length ≤ xs.length := by
  rw [addWaves, List.length_zipWith]
  exact Nat.min_le_left _ _

theorem inv_putDiagnostics {s : State} (hi : s.Inv) (noise : Bool) (wave scaled : List F64) (scale : F64) :
    (putDiagnostics noise wave scaled scale s).Inv :=
  { hi with }

theorem inv_modulate {noise intf diag : Bool} {gsrc : GaussSource} {s u : State} (hi : s.Inv)
    (h : RuleSucceeds (.modulate noise intf diag gsrc) s u) : u.Inv := by
  obtain ⟨⟨m, s1⟩, hstart, hfinish⟩ := h
  obtain ⟨hcap, hwave, href⟩ := modulateStart_lengths hstart
  have hs1 : s1 = { s with env := s1.env } := modulateStart_state hstart
  obtain ⟨sc, -, xs, -, rfl⟩ := (modulateFinish_eq_ok noise intf diag m s1 u).mp hfinish
  generalize s1.env = env at hs1
  subst hs1
  have hout {out : List F64} (hlen : out.length ≤ m.wave.length) :
      ((State.putSeq { s with env := env } .tx out).putSeq .ref m.ref).Inv := by
    have htx := inv_putSeq_samples (inv_withEnv hi env) (r := .tx) (by decide) rfl
      (hlen.trans (hwave.trans_le hcap))
    exact inv_putSeq_samples htx (by decide) rfl (href.trans_le hcap)
  have hnoisy : (if noise then addWaves m.wave sc.1 else m.wave).length ≤ m.wave.length := by
    split
    · exact addWaves_length_le _ _
    · rfl
  have hsum {noisy : List F64} (hle : noisy.length ≤ m.wave.length) :
      (if intf then addWaves noisy xs else noisy).length ≤ m.wave.length := by
    split
    · exact (addWaves_length_le _ _).trans hle
    · exact hle
  cases diag with
  | false => exact hout (hsum hnoisy)
  | true => exact inv_putDiagnostics (hout (hsum hnoisy)) _ _ _ _

/-- A rule that succeeds keeps the invariant. -/
theorem inv_ruleSucceeds {i : Instr} {s u : State} (hi : s.Inv) (h : RuleSucceeds i s u) : u.Inv := by
  cases i with
  | nop =>
    cases h
    exact hi
  | pnSeed =>
    cases h
    exact { hi with lfsr := hi.seed }
  | config => exact inv_configRule hi h
  | encode => exact inv_encodeRule hi h
  | decode _ => exact inv_decodeRule hi h
  | checksum => exact inv_checksumRule hi h
  | compare _ => exact inv_compareRule hi h
  | pnGen _ _ => exact inv_pnGenRule hi h
  | spread _ => exact inv_spreadRule hi h
  | modulate _ _ _ _ => exact inv_modulate hi h
  | refgen _ => exact inv_refgenRule hi h
  | despread _ _ => exact inv_despreadRule hi h
  | correlate => exact inv_correlateRule hi h
  | demod _ _ => exact inv_demodRule hi h
  | demodWrong _ => exact inv_demodRule hi h

theorem inv_exec {i : Instr} {s t : State} (hi : s.Inv) (h : exec i s = .next t) : t.Inv := by
  obtain ⟨u, hu, rfl⟩ | ⟨e, env, he, rfl⟩ := exec_cases h
  · exact inv_completeOk (inv_ruleSucceeds hi hu)
  · exact inv_takeError (inv_withEnv hi env) he

/-! ### One step -/

/-- The engine executes a command, reports an illegal word (R233), or idles. -/
theorem inv_engineTurn {s t : State} (hi : s.Inv) (h : engineTurn s = .next t) : t.Inv := by
  rw [engineTurn] at h
  split at h
  · rw [engineStep] at h
    split at h
    · exact inv_exec hi h
    · next e _ =>
      cases h
      refine inv_takeError hi ?_
      have hlow : s.cmd.toNat % 2 ^ 16 < 2 ^ 16 := Nat.mod_lt _ (by decide)
      cases e with
      | reservedOpcode | rsvNonzero | reservedOption => exact ⟨by decide, by decide, hlow⟩
  · cases h
    exact hi

theorem inv_perform {s t : State} (hi : s.Inv) (ev : Event) (h : perform ev s = .next t) : t.Inv := by
  cases ev with
  | hostRead a => exact inv_hostAccess hi (fun _ => inv_busRead hi) h
  | hostWrite a w => exact inv_hostAccess hi (fun _ => inv_busWrite hi) h
  | engine => exact inv_engineTurn hi h
  | reset =>
    cases h
    exact inv_resetWith ⟨hi.caps, hi.placement⟩ s.env

/-- Settles O56: a step is the engine's turn, or the oldest input on the state with it taken off. -/
theorem stepKeepsTheInvariant : Obligations.StepKeepsTheInvariant := by
  intro s t hi h
  rw [step, takeTurn] at h
  split at h
  · exact inv_engineTurn hi h
  · exact inv_perform (inv_withEnv hi _) _ h

end Sys2Proof.Machine
end

section
/-! The host's view of the block: the register map, what each transaction answers, the placement of the
block, reset, and the ERRCODE word (10_state.md R20 to R39, R48; 20_memory.md R72, R78; 60_exceptions.md
R234, R239). -/

namespace Sys2Proof.Machine

/-! ### The register map -/

/-- The index of a register in region 0 (R22). -/
def Csr.index : Csr → Nat
  | .id => 0x000
  | .ctrl => 0x001
  | .status => 0x002
  | .errcode => 0x003
  | .cmd => 0x004
  | .fs => 0x008
  | .fc => 0x009
  | .sf => 0x00A
  | .tsym => 0x00B
  | .snrDb => 0x00C
  | .amp => 0x00D
  | .phase => 0x00E
  | .seed => 0x00F
  | .tc => 0x010
  | .ns => 0x011
  | .nss => 0x012
  | .lfsr => 0x013
  | .len r => 0x020 + r.num
  | .cap r => 0x030 + r.num
  | .frameKind => 0x040
  | .field k => 0x041 + k.val
  | .dfield k => 0x051 + k.val
  | .cksum => 0x060
  | .cksumSum => 0x061
  | .mismatch => 0x062
  | .diagNormSig => 0x070
  | .diagNormNoise => 0x071
  | .diagScale => 0x072

theorem regionOf_num (r : Region) : regionOf r.num = some r := by
  cases r <;> rfl

theorem Region.num_lt (r : Region) : r.num < 16 := by
  have := r.idx.isLt
  simp only [Region.num]
  omega

theorem num_of_regionOf {n : Nat} {r : Region} (h : regionOf n = some r) : n = r.num := by
  unfold regionOf at h
  split at h <;> cases h <;> rfl

theorem Csr.index_lt (c : Csr) : c.index < 2 ^ 20 := by
  cases c with
  | len r | cap r =>
    have := r.num_lt
    simp only [Csr.index]
    omega
  | field k | dfield k =>
    have := k.isLt
    simp only [Csr.index]
    omega
  | _ => decide

/-- Every register is found at its index. -/
theorem csrOf_index (c : Csr) : csrOf c.index = some c := by
  cases c with
  | len r => cases r <;> rfl
  | cap r => cases r <;> rfl
  | field k => fin_cases k <;> rfl
  | dfield k => fin_cases k <;> rfl
  | _ => rfl

/-- What lies at an index is the register with that index. -/
theorem index_of_csrOf {j : Nat} {c : Csr} (h : csrOf j = some c) : j = c.index := by
  unfold csrOf at h
  split at h
  case h_25 =>
    split_ifs at h with hlen hcap hfield hdfield
    · obtain ⟨r, hr, rfl⟩ := Option.map_eq_some_iff.mp h
      have hnum := num_of_regionOf hr
      simp only [Csr.index]
      omega
    · obtain ⟨r, hr, rfl⟩ := Option.map_eq_some_iff.mp h
      have hnum := num_of_regionOf hr
      simp only [Csr.index]
      omega
    · cases h
      simp only [Csr.index]
      omega
    · cases h
      simp only [Csr.index]
      omega
  all_goals
    cases h
    rfl

/-! ### The words the register map reads -/

theorem flagBit_zero (b : Bool) : flagBit 0 b = if b then 1 else 0 := rfl

theorem csrRead_ns (s : State) : csrRead s .ns = BitVec.ofNat 64 (s.ns.toNat % 2 ^ 20) := by
  refine BitVec.eq_of_toNat_eq ?_
  simp only [csrRead, BitVec.truncate_eq_setWidth, BitVec.toNat_setWidth, BitVec.extractLsb'_toNat,
    BitVec.toNat_ofNat, Nat.shiftRight_zero]

/-- The registers of the map, in the order that `registerReads` lists their words. -/
def registerList : List Csr :=
  [.id, .ctrl, .status, .errcode, .cmd, .fs, .fc, .sf, .tsym, .snrDb, .amp, .phase, .seed, .tc, .ns, .nss,
    .lfsr, .frameKind, .cksum, .cksumSum, .mismatch, .diagNormSig, .diagNormNoise, .diagScale] ++
  [Region.bits, .text, .codeA, .codeB, .chips, .tx, .ref, .intf, .gnoise, .rx, .desp, .corr, .result,
    .dtext, .splus].flatMap (fun r => [.len r, .cap r]) ++
  (List.finRange 12).flatMap fun k => [.field k, .dfield k]

theorem mem_registerList (c : Csr) : c ∈ registerList := by
  cases c with
  | len r => cases r <;> simp [registerList]
  | cap r => cases r <;> simp [registerList]
  | _ => simp [registerList]

theorem registerReads_eq (s : State) :
    registerReads s = registerList.map fun c => (c.index, csrRead s c) := by
  unfold registerReads
  rw [← csrRead_ns]
  rfl

theorem mem_registerReads_iff (s : State) (j : Nat) (w : Word) :
    (j, w) ∈ registerReads s ↔ ∃ c : Csr, j = c.index ∧ w = csrRead s c := by
  rw [registerReads_eq, List.mem_map]
  constructor
  · rintro ⟨c, -, hc⟩
    obtain ⟨rfl, rfl⟩ := Prod.mk.inj hc
    exact ⟨c, rfl, rfl⟩
  · rintro ⟨c, rfl, rfl⟩
    exact ⟨c, mem_registerList c, rfl⟩

/-- The indices of R22 that are not reserved. -/
theorem mem_registerIndices_iff (s : State) (j : Nat) :
    j ∈ (registerReads s).map Prod.fst ↔ ∃ c : Csr, j = c.index := by
  rw [List.mem_map]
  constructor
  · rintro ⟨⟨_, w⟩, hmem, rfl⟩
    obtain ⟨c, hc, -⟩ := (mem_registerReads_iff s _ w).mp hmem
    exact ⟨c, hc⟩
  · rintro ⟨c, rfl⟩
    exact ⟨_, (mem_registerReads_iff s _ _).mpr ⟨c, rfl, rfl⟩, rfl⟩

/-! ### Transactions by register and by element -/

theorem toNat_busAddr {r j : Nat} (hr : r < 16) (hj : j < 2 ^ 20) :
    (busAddr r j).toNat = r * 2 ^ 20 + j := by
  rw [busAddr, BitVec.toNat_ofNat]
  exact Nat.mod_eq_of_lt (by omega)

theorem addrRegion_busAddr {r j : Nat} (hr : r < 16) (hj : j < 2 ^ 20) : addrRegion (busAddr r j) = r := by
  rw [addrRegion, BitVec.extractLsb'_toNat, toNat_busAddr hr hj, Nat.shiftRight_eq_div_pow, Nat.mul_comm,
    Nat.mul_add_div (by decide), Nat.div_eq_of_lt hj]
  exact Nat.mod_eq_of_lt hr

theorem addrIndex_busAddr {r j : Nat} (hr : r < 16) (hj : j < 2 ^ 20) : addrIndex (busAddr r j) = j := by
  rw [addrIndex, BitVec.extractLsb'_toNat, toNat_busAddr hr hj, Nat.shiftRight_zero, Nat.mul_comm,
    Nat.mul_add_mod]
  exact Nat.mod_eq_of_lt hj

section Idle

variable {s : State} (hb : s.busy = false)

include hb

theorem busRead_csr (c : Csr) : busRead (busAddr 0 c.index) s = answer (csrRead s c) s := by
  simp [busRead, hb, addrRegion_busAddr (by decide : 0 < 16) c.index_lt,
    addrIndex_busAddr (by decide : 0 < 16) c.index_lt, regionOf, csrOf_index]

theorem busRead_reserved {j : Nat} (hj : j < 2 ^ 20) (h : csrOf j = none) :
    busRead (busAddr 0 j) s = .fault .hostBusError := by
  simp [busRead, hb, addrRegion_busAddr (by decide : 0 < 16) hj,
    addrIndex_busAddr (by decide : 0 < 16) hj, regionOf, h]

/-- A write that a register takes. -/
theorem busWrite_csr (c : Csr) {w : Word} {t : State} (h : csrWrite w s c = some t) :
    busWrite (busAddr 0 c.index) w s = .next t := by
  simp [busWrite, hb, addrRegion_busAddr (by decide : 0 < 16) c.index_lt,
    addrIndex_busAddr (by decide : 0 < 16) c.index_lt, regionOf, csrOf_index, h]

theorem busWrite_csr_none (c : Csr) {w : Word} (h : csrWrite w s c = none) :
    busWrite (busAddr 0 c.index) w s = .fault .hostBusError := by
  simp [busWrite, hb, addrRegion_busAddr (by decide : 0 < 16) c.index_lt,
    addrIndex_busAddr (by decide : 0 < 16) c.index_lt, regionOf, csrOf_index, h]

theorem busWrite_reserved {j : Nat} (hj : j < 2 ^ 20) (w : Word) (h : csrOf j = none) :
    busWrite (busAddr 0 j) w s = .fault .hostBusError := by
  simp [busWrite, hb, addrRegion_busAddr (by decide : 0 < 16) hj,
    addrIndex_busAddr (by decide : 0 < 16) hj, regionOf, h]

theorem busRead_beyond {r : Region} {j : Nat} (hj : j < 2 ^ 20) (hcap : s.cap r ≤ j) :
    busRead (busAddr r.num j) s = .fault .hostBusError := by
  simp [busRead, hb, addrRegion_busAddr r.num_lt hj, addrIndex_busAddr r.num_lt hj, regionOf_num, hcap]

theorem busWrite_refused {r : Region} {j : Nat} (hj : j < 2 ^ 20) (w : Word)
    (h : r = .splus ∨ s.cap r ≤ j) : busWrite (busAddr r.num j) w s = .fault .hostBusError := by
  simp [busWrite, hb, addrRegion_busAddr r.num_lt hj, addrIndex_busAddr r.num_lt hj, regionOf_num, h]

end Idle

/-! ### STATUS -/

theorem getLsbD_flagBit {i : Nat} (hi : i < 64) (b : Bool) (j : Nat) :
    (flagBit i b).getLsbD j = (b && decide (j = i)) := by
  cases b with
  | false => simp [flagBit]
  | true =>
    simp only [flagBit, if_true, BitVec.getLsbD_shiftLeft, BitVec.getLsbD_one]
    grind

theorem getLsbD_statusWord (s : State) (j : Nat) :
    s.statusWord.getLsbD j = (s.busy && decide (j = 0) || s.done && decide (j = 1) ||
      s.err && decide (j = 2) || s.cmpOk && decide (j = 3) || s.cfgValid && decide (j = 4)) := by
  simp only [State.statusWord, BitVec.getLsbD_or]
  rw [getLsbD_flagBit (by decide), getLsbD_flagBit (by decide), getLsbD_flagBit (by decide),
    getLsbD_flagBit (by decide), getLsbD_flagBit (by decide)]

/-- Settles O47: a register read answers its word, and each flag stands at its bit of STATUS. -/
theorem registerMapReads : Obligations.RegisterMapReads := by
  constructor
  · intro s j w hb hmem
    obtain ⟨c, rfl, rfl⟩ := (mem_registerReads_iff s j w).mp hmem
    exact busRead_csr hb c
  · intro s
    simp only [getLsbD_statusWord]
    refine ⟨by simp, by simp, by simp, by simp, by simp, fun j hj => ?_⟩
    simp [show j ≠ 0 by omega, show j ≠ 1 by omega, show j ≠ 2 by omega, show j ≠ 3 by omega,
      show j ≠ 4 by omega]

/-! ### Bus errors -/

/-- The registers that a host write does not reach (R23). -/
def Csr.readOnly : Csr → Bool
  | .id | .errcode | .tc | .ns | .nss | .lfsr | .cap _ | .dfield _ | .cksum | .cksumSum | .mismatch
  | .diagNormSig | .diagNormNoise | .diagScale => true
  | .len r => r == .splus
  | _ => false

theorem csrWrite_readOnly {c : Csr} (hc : c.readOnly = true) (w : Word) (s : State) :
    csrWrite w s c = none := by
  cases c with
  | len r =>
    have hr : r = .splus := by simpa [Csr.readOnly] using hc
    simp [csrWrite, hr]
  | ctrl | status | cmd | fs | fc | sf | tsym | snrDb | amp | phase | seed | frameKind | field _ => cases hc
  | _ => rfl

theorem csrWrite_len_above {r : Region} {w : Word} {s : State} (h : s.cap r < w.toNat) :
    csrWrite w s (.len r) = none := by
  simp [csrWrite, h]

/-- Every index that R23 lists as read-only is that of a register that takes no write. -/
theorem readOnly_of_mem {j : Nat} (hj : j ∈ readOnlyIndices) :
    ∃ c : Csr, j = c.index ∧ c.readOnly = true := by
  have hall : ∀ j ∈ readOnlyIndices, (csrOf j).any Csr.readOnly = true := by decide
  obtain ⟨c, hc, hro⟩ := (Option.any_eq_true _ _).mp (hall j hj)
  exact ⟨c, index_of_csrOf hc, hro⟩

/-- Settles O48: a reserved index holds no register, a read-only register and a length take no such write,
and a region takes no access at or above its capacity. -/
theorem busErrors : Obligations.BusErrors := by
  intro s w hb
  refine ⟨fun j hj hres => ?_, fun j hj => ?_, fun r hcap => ?_, fun r j hj hcap => ?_, fun j hj => ?_⟩
  · have hnone : csrOf j = none := by
      cases hc : csrOf j with
      | none => rfl
      | some c => exact absurd ((mem_registerIndices_iff s j).mpr ⟨c, index_of_csrOf hc⟩) hres
    exact ⟨busRead_reserved hb hj hnone, busWrite_reserved hb hj w hnone⟩
  · obtain ⟨c, rfl, hro⟩ := readOnly_of_mem hj
    exact busWrite_csr_none hb c (csrWrite_readOnly hro w s)
  · exact busWrite_csr_none hb (.len r) (csrWrite_len_above hcap)
  · exact ⟨busRead_beyond hb hj hcap, busWrite_refused hb hj w (.inr hcap)⟩
  · exact busWrite_refused hb (r := .splus) hj w (.inl rfl)

/-! ### Register writes -/

theorem seedStored_eq (w : Word) :
    seedStored w = if w.toNat % 65536 = 0 then 1 else BitVec.ofNat 16 w.toNat := by
  have hlow : w.extractLsb' 0 16 = BitVec.ofNat 16 w.toNat := by
    refine BitVec.eq_of_toNat_eq ?_
    simp only [BitVec.extractLsb'_toNat, Nat.shiftRight_zero, BitVec.toNat_ofNat]
  have hzero : BitVec.ofNat 16 w.toNat = 0 ↔ w.toNat % 65536 = 0 := by
    rw [← BitVec.toNat_inj, BitVec.toNat_ofNat]
    rfl
  simp only [seedStored, hlow, hzero]

/-- Settles O50: each write is that of the register at its index. -/
theorem registerWrites : Obligations.RegisterWrites := by
  intro s w hb
  refine ⟨busWrite_csr hb .fs rfl, busWrite_csr hb .fc rfl, busWrite_csr hb .sf rfl,
    busWrite_csr hb .tsym rfl, busWrite_csr hb .amp rfl, busWrite_csr hb .phase rfl,
    busWrite_csr hb .snrDb rfl, busWrite_csr hb .seed ?_, busWrite_csr hb .ctrl rfl,
    busWrite_csr hb .frameKind rfl, fun k => busWrite_csr hb (.field k) rfl, fun r hr hcap => ?_⟩
  · rw [csrWrite, seedStored_eq]
  · have hwrite : csrWrite w s (.len r) = some (s.putLen r w.toNat) := by
      simp [csrWrite, hr, Nat.not_lt.mpr hcap]
    refine ⟨_, busWrite_csr hb (.len r) hwrite, rfl, by simp, fun q hq => ?_⟩
    simp [Ne.symm hq]

/-- Settles O52: the write of STATUS is the acknowledgement of R239. -/
theorem statusWriteAcknowledges : Obligations.StatusWriteAcknowledges := by
  intro s w hb
  refine busWrite_csr hb .status ?_
  rw [csrWrite, ackStatus]
  cases w.getLsbD 1 <;> cases w.getLsbD 2 <;> simp

/-! ### The oldest input -/

/-- Host addresses outside the block's range do not reach it. -/
theorem hostAccess_outside {transaction : BusAddr → State → Host.Outcome State Fault Refusal} {h : Nat}
    {s : State} (hout : h < s.params.baseAddr ∨ s.params.baseAddr + s.params.addrStride * 2 ^ 24 ≤ h) :
    hostAccess transaction h s = .next s := by
  have hcovers : s.covers h = false := by
    rw [State.covers, Bool.and_eq_false_iff, decide_eq_false_iff_not, decide_eq_false_iff_not]
    omega
  simp [hostAccess, hcovers]

theorem hostAccess_placed (transaction : BusAddr → State → Host.Outcome State Fault Refusal) {s : State}
    (hp : 1 ≤ s.params.addrStride) (a : BusAddr) :
    hostAccess transaction (s.params.baseAddr + s.params.addrStride * a.toNat) s = transaction a s := by
  obtain ⟨hcovers, hword⟩ := wordAddr_placed s hp a
  simp [hostAccess, hcovers, hword]

/-- Between two words there is no transaction (R75; log entry 18). -/
theorem hostAccess_between {transaction : BusAddr → State → Host.Outcome State Fault Refusal} {h : Nat}
    {s : State} (hlow : s.params.baseAddr ≤ h)
    (hhigh : h < s.params.baseAddr + s.params.addrStride * 2 ^ 24)
    (hbetween : ∀ a : BusAddr, h ≠ s.params.baseAddr + s.params.addrStride * a.toNat) :
    hostAccess transaction h s = .fault (if s.busy then .busyHazard else .hostBusError) := by
  have hcovers : s.covers h = true := by
    rw [State.covers, decide_eq_true hlow, decide_eq_true hhigh, Bool.and_self]
  have hword : s.wordAddr h = none := by
    simp only [State.wordAddr, ite_eq_right_iff]
    intro hdvd
    have hquot : (h - s.params.baseAddr) / s.params.addrStride < 2 ^ 24 :=
      Nat.div_lt_of_lt_mul (by omega)
    have hmul := Nat.mul_div_cancel' (Nat.dvd_of_mod_eq_zero hdvd)
    refine absurd ?_ (hbetween (BitVec.ofNat 24 ((h - s.params.baseAddr) / s.params.addrStride)))
    rw [BitVec.toNat_ofNat, Nat.mod_eq_of_lt hquot, hmul]
    omega
  simp [hostAccess, hcovers, hword]

theorem engineTurn_idle {s : State} (hb : s.busy = false) : engineTurn s = .next s := by
  simp [engineTurn, hb]

theorem step_of_agenda {s : State} {ev : Event} {rest : List Event} (h : s.env.agenda = ev :: rest) :
    step s = perform ev s.popInput := by
  rw [step, takeTurn, h]

/-- Settles O7: the step takes the oldest input, and a host address decides which transaction it is. -/
theorem stepPerformsTheOldestInput : Obligations.StepPerformsTheOldestInput := by
  intro s
  refine ⟨fun ev rest h => ⟨step_of_agenda h, by simp [h], rfl⟩,
    fun hp a w => ⟨hostAccess_placed _ hp a, hostAccess_placed _ hp a⟩,
    fun h w hout => ⟨hostAccess_outside hout, hostAccess_outside hout⟩,
    fun h w hlow hhigh hbetween =>
      ⟨hostAccess_between hlow hhigh hbetween, hostAccess_between hlow hhigh hbetween⟩,
    fun hb h => ?_, fun rest hb h => ?_⟩
  · rw [step, takeTurn, h]
    exact engineTurn_idle hb
  · rw [step_of_agenda h]
    exact engineTurn_idle (s := s.popInput) hb

/-! ### The ERRCODE word -/

theorem CmdError.code_lt (e : CmdError) : e.code < 256 := by
  cases e <;> simp [CmdError.code]

/-- The fields of the word as digits: CODE, DETAIL and INDEX (R27). -/
theorem toNat_word (e : CmdError) :
    e.word.toNat = (e.index % 2 ^ 32).toNat * 65536 + e.detail % 256 * 256 + e.code := by
  have hcode : e.code % 256 = e.code := Nat.mod_eq_of_lt e.code_lt
  have happend {m n : Nat} (x : BitVec m) (y : BitVec n) : (x ++ y).toNat = x.toNat * 2 ^ n + y.toNat := by
    rw [BitVec.toNat_append, ← Nat.shiftLeft_add_eq_or_of_lt y.isLt, Nat.shiftLeft_eq]
  rw [CmdError.word, happend, happend, happend, BitVec.toNat_ofInt]
  simp only [BitVec.toNat_ofNat]
  norm_num
  omega

/-- Settles O5: the fields are the digits of the word, and the numbers those of R230 and R234. -/
theorem errcodeWordLayout : Obligations.ErrcodeWordLayout := by
  intro e s
  have hword := toNat_word e
  have hcode := e.code_lt
  have hindex : (e.index % 2 ^ 32).toNat < 2 ^ 32 := by omega
  rw [takeError_errcode]
  refine ⟨?_, ?_, ?_, ?_, ?_⟩
  · refine BitVec.eq_of_toNat_eq ?_
    rw [BitVec.extractLsb'_toNat, hword, BitVec.toNat_ofNat, Nat.shiftRight_zero]
    omega
  · refine BitVec.eq_of_toNat_eq ?_
    rw [BitVec.extractLsb'_toNat, hword, BitVec.toNat_ofNat, Nat.shiftRight_eq_div_pow]
    omega
  · refine BitVec.eq_of_toNat_eq ?_
    rw [BitVec.extractLsb'_toNat, hword, BitVec.toNat_ofInt, Nat.shiftRight_eq_div_pow]
    push_cast
    omega
  · refine BitVec.eq_of_toNat_eq ?_
    rw [BitVec.extractLsb'_toNat, hword, Nat.shiftRight_eq_div_pow]
    simp
    omega
  · rw [hword]
    cases e with
    | capacity r n => cases r <;> rfl
    | range k | encoding j | length d n | config d | illegal d low =>
      simp only [CmdError.index, CmdError.detail, CmdError.code]
      omega

/-! ### Reset -/

/-- Settles O54: reset answers the state of R48 for the parameters and environment it finds. -/
theorem resetValues : Obligations.ResetValues := by
  intro s
  refine ⟨State.resetWith s.params s.env, rfl, rfl, ?status, rfl, rfl, rfl, rfl, rfl, rfl, rfl, rfl, rfl,
    rfl, rfl, rfl, rfl, rfl, rfl, ?fields, rfl, rfl, rfl, rfl, rfl, rfl, rfl,
    fun r => ⟨lenOf_resetWith _ _ r, rfl⟩, elem_resetWith _ _, rfl, rfl, rfl⟩
  case status => simp [State.statusWord, State.resetWith, flagBit]
  case fields => simp [State.resetWith]

end Sys2Proof.Machine
end

section
/-! Host reads have no effect but the word read, and a buffer element is read as it was last written
(10_state.md R41, R42, R44; 20_memory.md R71, R72, R77). -/

namespace Sys2Proof.Machine

/-! ### Reads do not look at the environment -/

@[simp] theorem csrRead_withEnv (s : State) (c : Csr) (e : Env) :
    csrRead { s with env := e } c = csrRead s c := by
  cases c <;> rfl

@[simp] theorem cap_withEnv (s : State) (r : Region) (e : Env) :
    State.cap { s with env := e } r = s.cap r := rfl

@[simp] theorem elem_withEnv (s : State) (r : Region) (j : Nat) (e : Env) :
    State.elem { s with env := e } r j = s.elem r j := rfl

/-- Whether a read completes, and the word it answers, depend on the block alone: under another environment
it completes with the same word. -/
theorem busRead_withEnv {a : BusAddr} {s t : State} (h : busRead a s = .next t) (e : Env) :
    busRead a { s with env := e } = .next { s with env := { e with rdata := t.env.rdata } } := by
  unfold busRead at h ⊢
  split at h
  case isTrue => cases h
  case isFalse hallowed =>
    rw [if_neg hallowed]
    cases hregion : regionOf (addrRegion a) with
    | none =>
      cases hcsr : csrOf (addrIndex a) with
      | none => simp [hregion, hcsr] at h
      | some c =>
        have ht : answer (csrRead s c) s = .next t := by simpa [hregion, hcsr] using h
        cases ht
        simp [answer]
    | some r =>
      have hcap : ¬ s.cap r ≤ addrIndex a := fun hcap => by simp [hregion, hcap] at h
      cases helem : s.elem r (addrIndex a) with
      | none => simp [hregion, hcap, helem] at h
      | some v =>
        have ht : answer v s = .next t := by simpa [hregion, hcap, helem] using h
        cases ht
        simp [hcap, helem, answer]

/-- Settles O46: the state after a read is the state before it under another environment, so the read is
repeated there with the same word. -/
theorem readsHaveNoSideEffect : Obligations.ReadsHaveNoSideEffect := by
  intro a s t h
  have hrepeat := busRead_withEnv h t.env
  obtain ⟨w, rfl⟩ := busRead_eq_next a s t h
  exact ⟨rfl, rfl, hrepeat⟩

/-! ### Buffer elements -/

section Element

variable {s : State} {r : Region} {j : Nat} (hb : s.busy = false) (hj : j < 2 ^ 20) (hcap : j < s.cap r)

include hb hj hcap

theorem busRead_unwritten (h : s.elem r j = none) : busRead (busAddr r.num j) s = .fault .uninitRead := by
  simp [busRead, hb, addrRegion_busAddr r.num_lt hj, addrIndex_busAddr r.num_lt hj, regionOf_num,
    Nat.not_le.mpr hcap, h]

theorem busRead_written {v : Word} (h : s.elem r j = some v) :
    busRead (busAddr r.num j) s = answer v s := by
  simp [busRead, hb, addrRegion_busAddr r.num_lt hj, addrIndex_busAddr r.num_lt hj, regionOf_num,
    Nat.not_le.mpr hcap, h]

theorem busWrite_element (hr : r ≠ .splus) (w : Word) :
    busWrite (busAddr r.num j) w s = .next (s.putElem r j (storedBits r w)) := by
  simp [busWrite, hb, addrRegion_busAddr r.num_lt hj, addrIndex_busAddr r.num_lt hj, regionOf_num,
    Nat.not_le.mpr hcap, hr]

end Element

/-- Settles O49: a write is `putElem` of the bits the region's width keeps, and a read answers the element. -/
theorem bufferWriteThenRead : Obligations.BufferWriteThenRead := by
  intro s r j hb hj hcap
  refine ⟨busRead_unwritten hb hj hcap, fun _ => busRead_written hb hj hcap, ?_⟩
  intro w hr kept
  have hkept : kept = r.width := by cases r <;> rfl
  clear_value kept
  subst hkept
  have helem : (s.putElem r j (storedBits r w)).elem r j = some (storedBits r w) := by simp
  have hother (q : Region) (k : Nat) (hq : q ≠ r ∨ k ≠ j) :
      (s.putElem r j (storedBits r w)).elem q k = s.elem q k := by
    rw [elem_putElem, if_neg (by tauto)]
  exact ⟨_, busWrite_element hb hj hcap hr w, rfl, helem, hother,
    busRead_written (s := s.putElem r j (storedBits r w)) hb hj hcap helem⟩

end Sys2Proof.Machine
end

section
/-! The decoder, the encoder and the match and mask table agree on every word (30_encoding.md R90 to R95). -/

namespace Sys2Proof

/-! ### The fields of a word (R90) -/

/-- The word with the given `RSV`, `OPT` and `OPCODE`. -/
def wordOfFields (rsv : BitVec 48) (opt opcode : BitVec 8) : Word :=
  rsv ++ (opt ++ opcode)

@[simp] theorem rsvField_wordOfFields (rsv : BitVec 48) (opt opcode : BitVec 8) :
    rsvField (wordOfFields rsv opt opcode) = rsv :=
  BitVec.extractLsb'_append_eq_left

@[simp] theorem optField_wordOfFields (rsv : BitVec 48) (opt opcode : BitVec 8) :
    optField (wordOfFields rsv opt opcode) = opt :=
  (BitVec.extractLsb'_append_eq_of_add_le (by decide)).trans BitVec.extractLsb'_append_eq_left

@[simp] theorem opcodeField_wordOfFields (rsv : BitVec 48) (opt opcode : BitVec 8) :
    opcodeField (wordOfFields rsv opt opcode) = opcode :=
  (BitVec.extractLsb'_append_eq_of_add_le (by decide)).trans BitVec.extractLsb'_append_eq_right

theorem wordOfFields_fields (w : Word) :
    wordOfFields (rsvField w) (optField w) (opcodeField w) = w := by
  have hlow : optField w ++ opcodeField w = w.extractLsb' 0 16 :=
    BitVec.extractLsb'_append_extractLsb'_eq_extractLsb' rfl
  rw [wordOfFields, hlow]
  exact (BitVec.extractLsb'_append_extractLsb'_eq_extractLsb' rfl).trans BitVec.extractLsb'_eq_self

theorem word_eq_iff_fields (w v : Word) :
    w = v ↔ rsvField w = rsvField v ∧ optField w = optField v ∧ opcodeField w = opcodeField v := by
  refine ⟨fun h => by simp [h], fun ⟨hrsv, hopt, hopcode⟩ => ?_⟩
  rw [← wordOfFields_fields w, hrsv, hopt, hopcode, wordOfFields_fields]

@[simp] theorem rsvField_and (w v : Word) : rsvField (w &&& v) = rsvField w &&& rsvField v :=
  BitVec.extractLsb'_and

@[simp] theorem optField_and (w v : Word) : optField (w &&& v) = optField w &&& optField v :=
  BitVec.extractLsb'_and

@[simp] theorem opcodeField_and (w v : Word) : opcodeField (w &&& v) = opcodeField w &&& opcodeField v :=
  BitVec.extractLsb'_and

@[simp] theorem rsvField_or (w v : Word) : rsvField (w ||| v) = rsvField w ||| rsvField v :=
  BitVec.extractLsb'_or

@[simp] theorem optField_or (w v : Word) : optField (w ||| v) = optField w ||| optField v :=
  BitVec.extractLsb'_or

@[simp] theorem opcodeField_or (w v : Word) : opcodeField (w ||| v) = opcodeField w ||| opcodeField v :=
  BitVec.extractLsb'_or

/-- A word below 2^8 is an opcode alone. -/
theorem ofNat_eq_wordOfFields {n : Nat} (hn : n < 256) :
    BitVec.ofNat 64 n = wordOfFields 0 0 (BitVec.ofNat 8 n) := by
  rw [word_eq_iff_fields, rsvField_wordOfFields, optField_wordOfFields, opcodeField_wordOfFields]
  refine ⟨?_, ?_, ?_⟩ <;> apply BitVec.eq_of_toNat_eq
  · simp only [rsvField, BitVec.extractLsb'_toNat, BitVec.ofNat_eq_ofNat, BitVec.toNat_ofNat]
    omega
  · simp only [optField, BitVec.extractLsb'_toNat, BitVec.ofNat_eq_ofNat, BitVec.toNat_ofNat]
    omega
  · simp only [opcodeField, BitVec.extractLsb'_toNat, BitVec.toNat_ofNat]
    omega

/-! ### Options and the bits that encode them (R92) -/

@[simp] theorem bitSourceOf_bit (src : BitSource) : bitSourceOf src.bit = src := by cases src <;> rfl
@[simp] theorem codeSelOf_bit (sel : CodeSel) : codeSelOf sel.bit = sel := by cases sel <;> rfl
@[simp] theorem pnSourceOf_bit (src : PnSource) : pnSourceOf src.bit = src := by cases src <;> rfl
@[simp] theorem waveSelOf_bit (x : WaveSel) : waveSelOf x.bit = x := by cases x <;> rfl
@[simp] theorem gaussSourceOf_bit (src : GaussSource) : gaussSourceOf src.bit = src := by
  cases src <;> rfl

@[simp] theorem bit_bitSourceOf (b : Bool) : (bitSourceOf b).bit = b := by cases b <;> rfl
@[simp] theorem bit_codeSelOf (b : Bool) : (codeSelOf b).bit = b := by cases b <;> rfl
@[simp] theorem bit_pnSourceOf (b : Bool) : (pnSourceOf b).bit = b := by cases b <;> rfl
@[simp] theorem bit_waveSelOf (b : Bool) : (waveSelOf b).bit = b := by cases b <;> rfl
@[simp] theorem bit_gaussSourceOf (b : Bool) : (gaussSourceOf b).bit = b := by cases b <;> rfl

/-- An `OPT` field with option bit `j` at `b` and every other bit 0. -/
def optionBit (j : Nat) (b : Bool) : BitVec 8 :=
  if b then BitVec.twoPow 8 j else 0

theorem fields_optBit : ∀ j < 8, ∀ b, rsvField (optBit j b) = 0 ∧
    optField (optBit j b) = optionBit j b ∧ opcodeField (optBit j b) = 0 := by
  decide

@[simp] theorem rsvField_optBit {j : Nat} (hj : j < 8) (b : Bool) : rsvField (optBit j b) = 0 :=
  (fields_optBit j hj b).1

@[simp] theorem optField_optBit {j : Nat} (hj : j < 8) (b : Bool) :
    optField (optBit j b) = optionBit j b :=
  (fields_optBit j hj b).2.1

@[simp] theorem opcodeField_optBit {j : Nat} (hj : j < 8) (b : Bool) : opcodeField (optBit j b) = 0 :=
  (fields_optBit j hj b).2.2

@[simp] theorem getElem_optionBit (j k : Nat) (b : Bool) (hk : k < 8) :
    (optionBit j b)[k] = (decide (j = k) && b) := by
  cases b <;> simp [optionBit, BitVec.getElem_twoPow, eq_comm]

theorem and_twoPow_eq_optionBit (opt : BitVec 8) (j : Nat) (hj : j < 8) :
    opt &&& BitVec.twoPow 8 j = optionBit j opt[j] := by
  rw [BitVec.and_twoPow, BitVec.getLsbD_eq_getElem hj]
  rfl

theorem and_option0 (opt : BitVec 8) : opt &&& 0x01#8 = optionBit 0 opt[0] :=
  and_twoPow_eq_optionBit opt 0 (by decide)

theorem and_option1 (opt : BitVec 8) : opt &&& 0x02#8 = optionBit 1 opt[1] :=
  and_twoPow_eq_optionBit opt 1 (by decide)

theorem and_options01 (opt : BitVec 8) :
    opt &&& 0x03#8 = optionBit 0 opt[0] ||| optionBit 1 opt[1] := by
  simp only [← and_twoPow_eq_optionBit, ← BitVec.and_or_distrib_left]
  rfl

theorem and_options0123 (opt : BitVec 8) :
    opt &&& 0x0F#8 =
      optionBit 0 opt[0] ||| optionBit 1 opt[1] ||| optionBit 2 opt[2] ||| optionBit 3 opt[3] := by
  simp only [← and_twoPow_eq_optionBit, ← BitVec.and_or_distrib_left]
  rfl

/-- No bit outside the mask is set exactly when masking keeps the whole field. -/
theorem and_not_eq_zero_iff {n : Nat} (x m : BitVec n) : x &&& ~~~m = 0 ↔ x &&& m = x := by
  constructor
  · intro h
    calc x &&& m = (x &&& m) ||| (x &&& ~~~m) := by simp [h]
      _ = x := by rw [← BitVec.and_or_distrib_left, BitVec.or_not_self, BitVec.and_allOnes]
  · intro h
    rw [← h, BitVec.and_assoc, BitVec.and_not_self]
    simp

/-! ### The opcode and the option bits of a command (R91, R92) -/

/-- The opcode of a command (R91). -/
def Instr.opcode : Instr → BitVec 8
  | .nop => 0x00
  | .config => 0x01
  | .pnSeed => 0x02
  | .encode => 0x10
  | .decode _ => 0x11
  | .checksum => 0x12
  | .compare _ => 0x13
  | .pnGen _ _ => 0x20
  | .spread _ => 0x21
  | .modulate _ _ _ _ => 0x30
  | .refgen _ => 0x31
  | .despread _ _ => 0x40
  | .correlate => 0x41
  | .demod _ _ => 0x42
  | .demodWrong _ => 0x43

/-- The option bits that a command's opcode has (R92). -/
def Instr.options : Instr → BitVec 8
  | .nop | .config | .pnSeed | .encode | .checksum | .correlate => 0x00
  | .decode _ | .compare _ | .spread _ => 0x01
  | .refgen _ | .demodWrong _ => 0x02
  | .pnGen _ _ | .despread _ _ | .demod _ _ => 0x03
  | .modulate _ _ _ _ => 0x0F

@[simp] theorem rsvField_encode (i : Instr) : rsvField (encode i) = 0 := by
  cases i <;> simp [encode, ofNat_eq_wordOfFields]

@[simp] theorem opcodeField_encode (i : Instr) : opcodeField (encode i) = i.opcode := by
  cases i <;> simp [encode, ofNat_eq_wordOfFields, Instr.opcode]

/-- The encoder's `OPT` field selects the command itself at the command's opcode. -/
theorem commandOf_encode (i : Instr) :
    commandOf i.opcode (optField (encode i)) = some (i.options, i) := by
  cases i <;> simp [commandOf, Instr.opcode, Instr.options, encode, ofNat_eq_wordOfFields]

/-- The opcode map answers a command for that command's opcode alone, with the options it has, and the
command encodes those of the `OPT` bits it was read from. -/
theorem commandOf_eq_some {opcode opt options : BitVec 8} {i : Instr}
    (h : commandOf opcode opt = some (options, i)) :
    opcode = i.opcode ∧ options = i.options ∧ opt &&& options = optField (encode i) := by
  unfold commandOf at h
  split at h <;> cases h
  all_goals
    rename_i hopcode
    refine ⟨BitVec.eq_of_toNat_eq hopcode, rfl, ?_⟩
    simp [encode, ofNat_eq_wordOfFields, and_option0, and_option1, and_options01, and_options0123]

/-! ### Decode and encode (R93) -/

/-- A word decodes to a command exactly when none of the three faults of R93 is there. -/
theorem decode_eq_ok (w : Word) (i : Instr) :
    decode w = .ok i ↔ ∃ options, commandOf (opcodeField w) (optField w) = some (options, i) ∧
      rsvField w = 0 ∧ optField w &&& ~~~options = 0 := by
  unfold decode
  cases hcommand : commandOf (opcodeField w) (optField w) with
  | none => simp
  | some found =>
    obtain ⟨options, k⟩ := found
    simp only [ne_eq, ite_not]
    split_ifs <;> simp_all

theorem decode_encode (i : Instr) : decode (encode i) = .ok i := by
  have hcommand := commandOf_encode i
  obtain ⟨-, -, hbits⟩ := commandOf_eq_some hcommand
  refine (decode_eq_ok _ i).mpr ⟨i.options, ?_, rsvField_encode i, ?_⟩
  · rw [opcodeField_encode, hcommand]
  · exact (and_not_eq_zero_iff _ _).mpr hbits

theorem eq_encode_of_decode {w : Word} {i : Instr} (h : decode w = .ok i) : w = encode i := by
  obtain ⟨options, hcommand, hrsv, hopt⟩ := (decode_eq_ok w i).mp h
  obtain ⟨hopcode, -, hbits⟩ := commandOf_eq_some hcommand
  rw [and_not_eq_zero_iff] at hopt
  rw [word_eq_iff_fields, rsvField_encode, opcodeField_encode]
  exact ⟨hrsv, hopt.symm.trans hbits, hopcode⟩

/-- Settles O1: the decoder inverts the encoder, and the fields of a word that decodes are those the
encoder writes. -/
theorem decodeAnswersExactlyTheEncodedWord : Obligations.DecodeAnswersExactlyTheEncodedWord := by
  intro w i
  constructor
  · exact eq_encode_of_decode
  · rintro rfl
    exact decode_encode i

/-! ### The match and mask table (R95) -/

/-- The row R95 describes for a command: in the mask all of `RSV` and `OPCODE` and every reserved option
bit, in the match the opcode. -/
def Instr.row (i : Instr) : OpcodeRow :=
  ⟨i.mnemonic, wordOfFields (BitVec.allOnes 48) (~~~i.options) (BitVec.allOnes 8),
    wordOfFields 0 0 i.opcode⟩

theorem spells_row (i : Instr) (w : Word) :
    i.row.spells w = true ↔
      rsvField w = 0 ∧ optField w &&& ~~~i.options = 0 ∧ opcodeField w = i.opcode := by
  simp only [OpcodeRow.spells, Instr.row, beq_iff_eq, word_eq_iff_fields, rsvField_and, optField_and,
    opcodeField_and, rsvField_wordOfFields, optField_wordOfFields, opcodeField_wordOfFields,
    BitVec.and_allOnes]

theorem row_mem_opcodeRows (i : Instr) : i.row ∈ opcodeRows := by
  cases i <;>
    (simp only [Instr.row, Instr.mnemonic, Instr.options, Instr.opcode]; decide)

/-- The rows of the table are those of the commands, here with every option at 0. -/
theorem opcodeRows_eq_map_row : opcodeRows =
    [.nop, .config, .pnSeed, .encode, .decode .bits, .checksum, .compare .bits, .pnGen .codeA .lfsr,
      .spread .codeA, .modulate false false false .internal, .refgen .tx, .despread .codeA .tx,
      .correlate, .demod .codeA .tx, .demodWrong .tx].map Instr.row := by
  decide

theorem exists_row_of_mem {r : OpcodeRow} (hr : r ∈ opcodeRows) : ∃ i : Instr, i.row = r := by
  rw [opcodeRows_eq_map_row] at hr
  obtain ⟨i, -, hi⟩ := List.mem_map.mp hr
  exact ⟨i, hi⟩

/-- Whatever the `OPT` bits, a command's opcode selects a command with the same row. -/
theorem commandOf_opcode (i : Instr) (opt : BitVec 8) :
    ∃ k, commandOf i.opcode opt = some (i.options, k) ∧ k.row = i.row := by
  cases i <;> exact ⟨_, rfl, rfl⟩

theorem spells_row_of_decode {w : Word} {i : Instr} (h : decode w = .ok i) : i.row.spells w = true := by
  obtain ⟨options, hcommand, hrsv, hopt⟩ := (decode_eq_ok w i).mp h
  obtain ⟨hopcode, rfl, -⟩ := commandOf_eq_some hcommand
  exact (spells_row i w).mpr ⟨hrsv, hopt, hopcode⟩

/-- A word that matches a row decodes, to a command with that row. -/
theorem decode_of_spells {r : OpcodeRow} (hr : r ∈ opcodeRows) {w : Word} (h : r.spells w = true) :
    ∃ i, decode w = .ok i ∧ i.row = r := by
  obtain ⟨i, rfl⟩ := exists_row_of_mem hr
  obtain ⟨hrsv, hopt, hopcode⟩ := (spells_row i w).mp h
  obtain ⟨k, hcommand, hrow⟩ := commandOf_opcode i (optField w)
  rw [← hopcode] at hcommand
  exact ⟨k, (decode_eq_ok w k).mpr ⟨i.options, hcommand, hrsv, hopt⟩, hrow⟩

theorem spells_iff_of_decode {w : Word} {i : Instr} (h : decode w = .ok i) {r : OpcodeRow}
    (hr : r ∈ opcodeRows) : r.spells w = true ↔ r = i.row := by
  constructor
  · intro hspells
    obtain ⟨k, hk, rfl⟩ := decode_of_spells hr hspells
    cases h.symm.trans hk
    rfl
  · rintro rfl
    exact spells_row_of_decode h

theorem opcodeRows_nodup : opcodeRows.Nodup := by decide

theorem filter_spells_of_decode {w : Word} {i : Instr} (h : decode w = .ok i) :
    (opcodeRows.filter fun r => r.spells w) = [i.row] := by
  calc (opcodeRows.filter fun r => r.spells w)
      = opcodeRows.filter (· == i.row) :=
        List.filter_congr fun r hr => by
          rw [Bool.eq_iff_iff, beq_iff_eq]
          exact spells_iff_of_decode h hr
    _ = [i.row] := by
        rw [List.filter_beq, List.count_eq_one_of_mem opcodeRows_nodup (row_mem_opcodeRows i)]
        rfl

/-- Settles O2: a word matches a row exactly when it decodes to a command with that row, so the decoder's
one answer leaves one row or none. -/
theorem eachLegalWordSpellsOneMnemonic : Obligations.EachLegalWordSpellsOneMnemonic := by
  intro w
  constructor
  · intro i h
    rw [filter_spells_of_decode h]
    rfl
  · intro e h
    refine List.filter_eq_nil_iff.mpr fun r hr hspells => ?_
    obtain ⟨i, hi, -⟩ := decode_of_spells hr hspells
    simp [h] at hi

/-! ### Sample words -/

/-- Settles O4: each sample is the word the encoder writes for its command. -/
theorem sampleWordsDecode : Obligations.SampleWordsDecode :=
  ⟨decode_encode .config, decode_encode (.compare .result), decode_encode (.pnGen .codeA .entropy),
    decode_encode (.modulate true false true .internal), decode_encode (.demod .codeB .rx)⟩

end Sys2Proof
end

section
/-! The control commands: NOP completes and writes nothing else, CONFIG leaves the derived registers and the
carrier (40_control.md R110 to R112). -/

namespace Sys2Proof.Machine

/-! ### NOP -/

/-- With nothing pending, a command just issued is what the next step executes (R236). -/
theorem step_issue {s : State} {w : Word} {i : Instr} (hidle : s.env.agenda = [])
    (hw : decode w = .ok i) : step (issue w s) = exec i (issue w s) := by
  have hturn : step (issue w s) = engineStep (issue w s) := by simp [step, takeTurn, engineTurn, hidle]
  rw [hturn, engineStep, issue_cmd, hw]

theorem decode_zero : decode 0 = .ok .nop := decode_encode .nop

theorem exec_nop (s : State) : exec .nop s = .next (completeOk s) := rfl

/-- Issuing clears ERRCODE and completing sets the flags, so nothing of an earlier error is left (R110). -/
theorem step_issue_nop {s : State} (hidle : s.env.agenda = []) :
    step (issue 0 s) =
      .next { s with cmd := 0, errcode := 0, busy := false, done := true, err := false } := by
  rw [step_issue hidle decode_zero, exec_nop]
  rfl

/-- Settles O18: the end state from reset is the one that every state ends in, since reset holds 0 in CMD
and ERRCODE already. -/
theorem nopOnlyCompletes : Obligations.NopOnlyCompletes :=
  ⟨decode_zero, exec_nop, fun _ => step_issue_nop, step_issue_nop (s := State.reset) rfl, by decide⟩

/-! ### The derived registers -/

theorem toNat_ns_configured (s : State) {ns : Nat} (hns : ns ≤ 2 ^ 20) : (configured s ns).ns.toNat = ns :=
  Nat.mod_eq_of_lt (by omega)

/-- The product of a sample count and a spreading factor within R6's bounds fits NSS. -/
theorem toNat_nss_configured (s : State) {ns : Nat} (hns : ns ≤ 2 ^ 20) (hpos : 0 ≤ s.sf.toInt)
    (hsf : s.sf.toInt ≤ 2 ^ 20) : ((configured s ns).nss.toNat : Int) = ns * s.sf.toInt := by
  have hsfNat : s.sf.toInt = s.sf.toNat := BitVec.toInt_eq_toNat_of_lt (BitVec.toInt_pos_iff.mp hpos)
  have hprod : ns * s.sf.toNat ≤ 2 ^ 20 * 2 ^ 20 := Nat.mul_le_mul hns (by omega)
  have hnss : (configured s ns).nss.toNat = ns * s.sf.toNat := Nat.mod_eq_of_lt (by omega)
  rw [hnss, Nat.cast_mul, ← hsfNat]

/-! ### The carrier -/

/-- FC = -0.0 is taken as +0.0 (R111, corner cases). -/
theorem carrierFrequency_eq (s : State) :
    carrierFrequency s = if s.fc = 0x8000000000000000 then 0x0000000000000000 else s.fc := rfl

theorem carrierDegenerate_eq_false_iff (s : State) (ns : Nat) :
    carrierDegenerate (carrier s ns) = false ↔
      (∀ n, n < ns → isFinite (carrierSample s n) = true) ∧ isZero (norm (carrier s ns)) = false := by
  simp [carrierDegenerate, carrier]

/-! ### CONFIG -/

/-- The sample count that CONFIG derives, where its checks pass (R111). -/
def derivedCount (s : State) : Nat :=
  (roundHalfEven (sampleCount s)).toNat

theorem configRule_of_ready {s : State} (h : ConfigReady s) :
    configRule s = .ok (configured s (derivedCount s)) := by
  obtain ⟨-, hsf, hsfcap, hfs, hfc, hnyquist, htsym, hfinite, hpos, hroom, hsamples, hnorm⟩ := h
  exact (configRule_eq_ok s _).mpr
    ⟨(configInputs_eq_ok s ()).mpr ⟨hsf, hsfcap, hfs, hfc, hnyquist, htsym⟩, derivedCount s,
      (configCount_eq_ok s _).mpr ⟨hfinite, hpos, hroom, rfl⟩,
      (carrierDegenerate_eq_false_iff s _).mpr ⟨hsamples, hnorm⟩, rfl⟩

theorem exec_config_of_ready {s : State} (h : ConfigReady s) :
    exec .config s = .next (completeOk (configured s (derivedCount s))) := by
  rw [exec, execConfig, configRule_of_ready h, complete_ok]

/-- The checks leave a sample count and a spreading factor within R6's bounds. -/
theorem bounds_of_configReady {s : State} (h : ConfigReady s) :
    (derivedCount s : Int) = roundHalfEven (sampleCount s) ∧ derivedCount s ≤ 2 ^ 20 ∧
      0 ≤ s.sf.toInt ∧ s.sf.toInt ≤ 2 ^ 20 := by
  obtain ⟨⟨-, -, ⟨-, hcode⟩, -, -, -, -, -, hsplus⟩, hsf, hsfcap, -, -, -, -, -, hpos, hroom, -, -⟩ := h
  have hsfcap' : s.sf.toInt ≤ s.params.caps.code := hsfcap
  have hroom' : roundHalfEven (sampleCount s) ≤ s.params.caps.ns := hroom
  rw [derivedCount]
  omega

/-- Settles O19: the end state is the configured one, whose registers and samples are those of R111 because
the count and the products fit their words. -/
theorem configDerivesTheCarrier : Obligations.ConfigDerivesTheCarrier := by
  intro s h
  obtain ⟨hcount, hns, hsf, hsfle⟩ := bounds_of_configReady h
  have hnsNat : (completeOk (configured s (derivedCount s))).ns.toNat = derivedCount s :=
    toNat_ns_configured s hns
  refine ⟨_, exec_config_of_ready h, rfl, (configRule_frame (configRule_of_ready h)).regions, rfl, ?count,
    ?product, rfl, ?length, ?samples⟩
  case count => rw [hnsNat, hcount]; rfl
  case product => rw [hnsNat]; exact toNat_nss_configured s hns hsf hsfle
  case length => rw [hnsNat]; exact lenOf_configured s _
  case samples =>
    intro fc n hn
    rw [hnsNat] at hn
    rw [elem_completeOk, elem_configured s hn, carrierSample, carrierFrequency_eq]
    rfl

end Sys2Proof.Machine
end

section
/-! The layout of a frame (41_frame_codec.md R130 to R134): the fields as bytes, bytes as bits and back, the
text as ENCODE scans it, and the mask COMPARE makes of the differences. -/

namespace Sys2Proof.Machine

/-! ### The fields -/

theorem toList_field (s : State) : s.field.toList = (List.finRange 12).map fun k => s.field[k] :=
  List.ext_getElem (by simp) fun i _ _ => by simp

theorem inFieldRange_iff (v : Word) : inFieldRange v = true ↔ -128 ≤ v.toInt ∧ v.toInt ≤ 127 := by
  simp [inFieldRange]

theorem fieldsInRange_iff (s : State) :
    FieldsInRange s ↔ ∀ v ∈ s.field.toList, inFieldRange v = true := by
  simp [FieldsInRange, toList_field, inFieldRange_iff]

theorem checkFields_of_inRange {s : State} (h : FieldsInRange s) : checkFields s = .ok () :=
  (checkFields_eq_ok s ()).mpr ((fieldsInRange_iff s).mp h)

/-- The RangeError is that of the first field out of range (R131, R133). -/
theorem checkFields_of_first {s : State} {k : Fin 12}
    (hk : s.field[k].toInt < -128 ∨ 127 < s.field[k].toInt)
    (hbefore : ∀ j : Fin 12, j < k → -128 ≤ s.field[j].toInt ∧ s.field[j].toInt ≤ 127) :
    checkFields s = .error (.raise (.range (k.val + 1))) := by
  have hfind : s.field.toList.findIdx? (fun v => !inFieldRange v) = some k.val := by
    refine List.findIdx?_eq_some_iff_getElem.mpr ⟨by simp, ?out, fun j hj => ?inside⟩
    case out =>
      have hnot : ¬ inFieldRange s.field[k] = true := by
        rw [inFieldRange_iff]
        omega
      simpa using hnot
    case inside => simpa using (inFieldRange_iff _).mpr (hbefore ⟨j, hj.trans k.isLt⟩ hj)
  rw [checkFields, hfind]

theorem fieldBytes_eq (s : State) :
    fieldBytes s = (List.finRange 12).map fun k => fieldByte s.field[k] := by
  rw [fieldBytes, toList_field, List.map_map]
  rfl

theorem fieldBytes_getElem? (s : State) (k : Fin 12) :
    (fieldBytes s)[k.val]? = some (fieldByte s.field[k]) := by
  simp [fieldBytes]

theorem fieldByte_lt (v : Word) : fieldByte v < 256 := by
  rw [fieldByte]
  omega

/-! ### A byte as a decoded field (R132) -/

theorem toInt_fieldValue_eq_byteField {u : Nat} (hu : u < 256) : (fieldValue u).toInt = byteField u := by
  rw [fieldValue, byteField, BitVec.toInt_ofInt]
  split <;> simp only [Int.bmod] <;> omega

/-- Decoding takes back the reduction mod 256 of a field in range (R135). -/
theorem fieldValue_fieldByte {v : Word} (hlow : -128 ≤ v.toInt) (hhigh : v.toInt ≤ 127) :
    fieldValue (fieldByte v) = v := by
  refine BitVec.eq_of_toInt_eq ?_
  rw [toInt_fieldValue_eq_byteField (fieldByte_lt v), byteField, fieldByte]
  split <;> omega

theorem decodedFields_getElem (bytes : List Nat) (k : Fin 12) :
    (decodedFields bytes)[k] = fieldValue (bytes.getD k 0) := by
  fin_cases k <;> rfl

theorem byteElem_of_lt {u : Nat} (hu : u < 256) : byteElem u = BitVec.ofNat 64 u := by
  rw [byteElem, Nat.mod_eq_of_lt hu]

/-! ### Bytes as bits and back -/

@[simp] theorem elemBit_bitElem (b : Bool) : elemBit (bitElem b) = b := by
  cases b <;> rfl

/-- The most significant bit comes first (R130). -/
theorem byteBits_getElem? (u : Nat) {b : Nat} (hb : b < 8) : (byteBits u)[b]? = some (u.testBit (7 - b)) := by
  interval_cases b <;> rfl

/-- Bit `8 * g + b` of a sequence of bytes is bit `7 - b` of byte `g` (R130). -/
theorem flatMap_byteBits_getElem? (us : List Nat) (g : Nat) {b : Nat} (hb : b < 8) :
    (us.flatMap byteBits)[8 * g + b]? = us[g]?.map fun u => u.testBit (7 - b) := by
  rw [Nat.mul_comm, getElem?_flatMap_blocks us byteBits 8 (fun u _ => byteBits_length u) g b hb]
  cases us[g]? with
  | none => rfl
  | some u => exact byteBits_getElem? u hb

theorem byteOfBits_testBit {u : Nat} (hu : u < 256) :
    byteOfBits (u.testBit 7) (u.testBit 6) (u.testBit 5) (u.testBit 4) (u.testBit 3) (u.testBit 2)
      (u.testBit 1) (u.testBit 0) = u := by
  simp only [byteOfBits, Nat.toNat_testBit]
  omega

/-- Reading a sequence of bytes in groups of eight gives the bytes back (R135). -/
theorem bytesOf_flatMap_byteBits {us : List Nat} (hus : ∀ u ∈ us, u < 256) :
    bytesOf (us.flatMap byteBits) = us := by
  induction us with
  | nil => rfl
  | cons u us ih =>
    obtain ⟨hu, hrest⟩ := List.forall_mem_cons.mp hus
    simp only [List.flatMap_cons, byteBits, List.cons_append, List.nil_append, bytesOf, byteOfBits_testBit hu,
      ih hrest]

/-- The byte of the eight bits from index `8 * g` on of a sequence given by index. -/
def byteAt (f : Nat → Bool) (g : Nat) : Nat :=
  byteOfBits (f (8 * g)) (f (8 * g + 1)) (f (8 * g + 2)) (f (8 * g + 3)) (f (8 * g + 4)) (f (8 * g + 5))
    (f (8 * g + 6)) (f (8 * g + 7))

theorem byteAt_succ (f : Nat → Bool) (g : Nat) : byteAt f (g + 1) = byteAt (fun i => f (8 + i)) g := by
  simp only [byteAt, show 8 * (g + 1) = 8 + 8 * g by omega, Nat.add_assoc]

theorem groupByte_eq_byteAt (s : State) (r : Region) (g : Nat) : s.groupByte r g = byteAt (s.bitAt r) g := by
  simp [State.groupByte, byteAt, byteOfBits, List.range_succ, Nat.add_assoc]

theorem groupByte_lt (s : State) (r : Region) (g : Nat) : s.groupByte r g < 256 := by
  rw [groupByte_eq_byteAt]
  exact byteOfBits_lt _ _ _ _ _ _ _ _

theorem bytesOf_range (f : Nat → Bool) (m : Nat) :
    bytesOf ((List.range (8 * m)).map f) = (List.range m).map (byteAt f) := by
  induction m generalizing f with
  | zero => rfl
  | succ m ih =>
    have hsplit : (List.range (8 * (m + 1))).map f =
        (List.range 8).map f ++ (List.range (8 * m)).map fun i => f (8 + i) := by
      rw [show 8 * (m + 1) = 8 + 8 * m by omega, List.range_add, List.map_append, List.map_map]
      rfl
    have hrest : (List.range m).map (byteAt fun i => f (8 + i)) =
        (List.range m).map fun g => byteAt f (g + 1) :=
      List.map_congr_left fun g _ => (byteAt_succ f g).symm
    calc bytesOf ((List.range (8 * (m + 1))).map f)
        = byteAt f 0 :: bytesOf ((List.range (8 * m)).map fun i => f (8 + i)) := by rw [hsplit]; rfl
      _ = byteAt f 0 :: (List.range m).map fun g => byteAt f (g + 1) := by rw [ih, hrest]
      _ = (List.range (m + 1)).map (byteAt f) := by
          rw [List.range_succ_eq_map, List.map_cons, List.map_map]
          rfl

/-! ### The text of a frame (R131) -/

theorem codePointAt_of_elem {s : State} {r : Region} {j : Nat} {w : Word} (h : s.elem r j = some w) :
    s.codePointAt r j = elemCodePoint w := by
  rw [State.codePointAt, h, Option.getD_some]

theorem exists_ascii {s : State} {n : Nat} (hw : Written s .text n)
    (hascii : ∀ k, k < n → s.codePointAt .text k ≤ 127) (k : Nat) (hk : k < n) :
    ∃ w, s.elem .text k = some w ∧ elemCodePoint w ≤ 127 := by
  obtain ⟨w, hw⟩ := Option.isSome_iff_exists.mp (hw k hk)
  exact ⟨w, hw, codePointAt_of_elem hw ▸ hascii k hk⟩

/-- The text ENCODE serializes, as code points. -/
def textCodes (s : State) : List Nat :=
  (List.range (textCount s)).map (s.codePointAt .text)

@[simp] theorem textCodes_length (s : State) : (textCodes s).length = textCount s := by
  simp [textCodes]

theorem scanText_of_written {s : State} (hw : Written s .text (textCount s))
    (hascii : ∀ k, k < textCount s → s.codePointAt .text k ≤ 127) :
    scanText s 0 (textCount s) = .ok (textCodes s) := by
  rw [scanText_of_ascii s 0 _ fun k hk => by simpa using exists_ascii hw hascii k hk]
  simp only [Nat.zero_add]
  rfl

/-- The scan stops at the first character above 127. -/
theorem scanText_of_nonAscii {s : State} {w : Word} (hw : 127 < elemCodePoint w) (j : Nat) {i n : Nat}
    (hjn : j < n) (hj : s.elem .text (i + j) = some w)
    (hbefore : ∀ k, k < j → ∃ v, s.elem .text (i + k) = some v ∧ elemCodePoint v ≤ 127) :
    scanText s i n = .error (.raise (.encoding (i + j))) := by
  induction j generalizing i n with
  | zero =>
    obtain ⟨n, rfl⟩ := Nat.exists_eq_add_of_lt hjn
    rw [Nat.add_zero] at hj
    simp [scanText, hj, hw]
  | succ j ih =>
    obtain ⟨n, rfl⟩ := Nat.exists_eq_succ_of_ne_zero (Nat.ne_zero_of_lt hjn)
    obtain ⟨v, hv, hle⟩ := hbefore 0 (by omega)
    rw [Nat.add_zero] at hv
    have hshift (k : Nat) : i + 1 + k = i + (k + 1) := by omega
    have hrest : scanText s (i + 1) n = .error (.raise (.encoding (i + 1 + j))) :=
      ih (by omega) (by rwa [hshift]) fun k hk => by rw [hshift]; exact hbefore (k + 1) (by omega)
    rw [hshift] at hrest
    simp [scanText, hv, Nat.not_lt.mpr hle, hrest]

/-! ### The mask of the differences (R134) -/

theorem testBit_maskOf (bs : List Bool) (k : Nat) : (maskOf bs).testBit k = bs.getD k false := by
  induction bs generalizing k with
  | nil => simp [maskOf]
  | cons b bs ih =>
    cases k with
    | zero => cases b <;> simp [maskOf, Nat.testBit_zero]
    | succ k =>
      have hhalf : maskOf (b :: bs) / 2 = maskOf bs := by
        cases b <;> simp only [maskOf, Bool.toNat_true, Bool.toNat_false] <;> omega
      rw [Nat.testBit_succ, hhalf, ih, List.getD_cons_succ]

theorem maskOf_lt (bs : List Bool) : maskOf bs < 2 ^ bs.length := by
  induction bs with
  | nil => simp [maskOf]
  | cons b bs ih =>
    have hb := b.toNat_le
    rw [maskOf, List.length_cons, Nat.pow_succ]
    omega

@[simp] theorem fieldDiffs_length (df : Vector Word 12) (s : State) : (fieldDiffs df s).length = 12 := by
  simp [fieldDiffs]

theorem fieldDiffs_getD (df : Vector Word 12) (s : State) (k : Fin 12) :
    (fieldDiffs df s).getD k false = (df[k].toInt != s.field[k].toInt) := by
  simp [fieldDiffs]

end Sys2Proof.Machine
end

section
/-! The frame codec (41_frame_codec.md R130 to R136): what ENCODE, DECODE, COMPARE and CHECKSUM write, the
errors ENCODE and CHECKSUM report, and that decoding takes back what encoding lays out. -/

namespace Sys2Proof.Machine

/-! ### ENCODE -/

/-- The bytes of the frame of R130: the twelve fields, then the text. -/
def frameBytes (s : State) : List Nat :=
  fieldBytes s ++ textCodes s

@[simp] theorem frameBytes_length (s : State) : (frameBytes s).length = 12 + textCount s := by
  simp [frameBytes]

theorem frameBytes_field (s : State) (k : Fin 12) : (frameBytes s)[k.val]? = some (fieldByte s.field[k]) := by
  rw [frameBytes, List.getElem?_append_left (by simp), fieldBytes_getElem?]

theorem frameBytes_text (s : State) {j : Nat} (hj : j < textCount s) :
    (frameBytes s)[12 + j]? = some (s.codePointAt .text j) := by
  rw [frameBytes, List.getElem?_append_right (by simp)]
  simp [textCodes, hj]

theorem frameBytes_lt {s : State} (h : EncodeReady s) : ∀ u ∈ frameBytes s, u < 256 := by
  obtain ⟨-, -, hascii, -⟩ := h
  intro u hu
  obtain hu | hu := List.mem_append.mp hu
  · obtain ⟨v, -, rfl⟩ := List.mem_map.mp hu
    exact fieldByte_lt v
  · obtain ⟨j, hj, rfl⟩ := List.mem_map.mp hu
    have hle := hascii j (List.mem_range.mp hj)
    omega

/-- The elements ENCODE writes: the frame's bytes, most significant bit first. -/
def frameElems (s : State) : List Word :=
  ((frameBytes s).flatMap byteBits).map bitElem

@[simp] theorem frameElems_length (s : State) : (frameElems s).length = 96 + 8 * textCount s := by
  simp only [frameElems, List.length_map, flatMap_byteBits_length, frameBytes_length]
  omega

theorem map_elemBit_frameElems (s : State) : (frameElems s).map elemBit = (frameBytes s).flatMap byteBits := by
  simp [frameElems, Function.comp_def]

theorem exec_encode_of_ready {s : State} (h : EncodeReady s) :
    exec .encode s = .next (completeOk (s.putSeq .bits (frameElems s))) := by
  obtain ⟨hfields, hwritten, hascii, hroom⟩ := h
  have hrule : encodeRule s = .ok (s.putSeq .bits (frameElems s)) :=
    (encodeRule_eq_ok s _).mpr ⟨(fieldsInRange_iff s).mp hfields, textCodes s,
      scanText_of_written hwritten hascii, hroom, rfl⟩
  rw [exec, execEncode, hrule, complete_ok]

theorem elem_encoded (s : State) {g b u : Nat} (hu : (frameBytes s)[g]? = some u) (hb : b < 8) :
    (s.putSeq .bits (frameElems s)).elem .bits (8 * g + b) = some (bitElem (u.testBit (7 - b))) := by
  have hbit : (frameElems s)[8 * g + b]? = some (bitElem (u.testBit (7 - b))) := by
    rw [frameElems, List.getElem?_map, flatMap_byteBits_getElem? _ _ hb, hu]
    rfl
  obtain ⟨hlt, -⟩ := List.getElem?_eq_some_iff.mp hbit
  rw [elem_putSeq, if_pos ⟨rfl, hlt⟩, hbit]

/-- Settles O16: the scan stops at the first character above 127, and where it reads to the end the check
of the capacity is what is left. -/
theorem encodeReportsTextErrors : Obligations.EncodeReportsTextErrors := by
  intro s hfields
  constructor
  · intro j w hj hw hnot hwritten hascii
    have hscan : scanText s 0 (textCount s) = .error (.raise (.encoding j)) := by
      simpa using scanText_of_nonAscii hnot j hj (i := 0) (by simpa using hw) fun k hk => by
        simpa using exists_ascii hwritten hascii k hk
    rw [exec, execEncode, encodeRule, checkFields_of_inRange hfields, ok_bind, hscan, error_bind,
      complete_raise]
  · intro hwritten hascii hroom
    rw [exec, execEncode, encodeRule, checkFields_of_inRange hfields, ok_bind,
      scanText_of_written hwritten hascii, ok_bind]
    simp only [decide_eq_true hroom, raiseIf_true, error_bind, complete_raise]

/-- Settles O20: bit `8 * g + b` of the region is bit `7 - b` of the frame's byte `g`, which is a field's
for `g < 12` and a character's from 12 on. -/
theorem encodeLaysOutTheFrame : Obligations.EncodeLaysOutTheFrame := by
  intro s h
  refine ⟨_, exec_encode_of_ready h, ⟨rfl, keepsElements_putSeq s .bits (frameElems s)⟩, ?length,
    ?fields, ?text⟩
  case length => simp
  case fields => exact fun k b hb => elem_encoded s (frameBytes_field s k) hb
  case text =>
    intro j b hj hb
    rw [show 96 + 8 * j + b = 8 * (12 + j) + b by omega]
    exact elem_encoded s (frameBytes_text s hj) hb

/-! ### DECODE -/

theorem exec_decode_of_bytes {src : BitSource} {s : State} {bytes : List Nat}
    (h : decodeBytes src s = .ok bytes) :
    exec (.decode src) s = .next (completeOk (decodedInto s bytes)) := by
  have hrule : decodeRule src s = .ok (decodedInto s bytes) :=
    (decodeRule_eq_ok src s _).mpr ⟨bytes, h, rfl⟩
  rw [exec, execDecode, hrule, complete_ok]

@[simp] theorem lenOf_decodedInto (s : State) (bytes : List Nat) :
    (decodedInto s bytes).lenOf .dtext = bytes.length - 12 := by
  change (s.putSeq .dtext _).lenOf .dtext = _
  simp

/-- The bytes after the twelfth are the text. -/
theorem elem_decodedInto (s : State) {bytes : List Nat} {j u : Nat} (hu : bytes[12 + j]? = some u)
    (hlt : u < 256) : (decodedInto s bytes).elem .dtext j = some (BitVec.ofNat 64 u) := by
  obtain ⟨hj, -⟩ := List.getElem?_eq_some_iff.mp hu
  change (s.putSeq .dtext _).elem .dtext j = _
  rw [elem_putSeq, if_pos ⟨rfl, by simp; omega⟩, List.getElem?_map, List.getElem?_drop, hu, Option.map_some,
    byteElem_of_lt hlt]

/-- The bytes DECODE and COMPARE read: one for each group of eight bits (R132). -/
def groupBytes (src : BitSource) (s : State) : List Nat :=
  (List.range (s.lenOf (bitRegion src) / 8)).map (s.groupByte (bitRegion src))

theorem decodeBytes_of_ready {src : BitSource} {s : State} (h : DecodeReady src s) :
    decodeBytes src s = .ok (groupBytes src s) := by
  obtain ⟨hwf, hgroups, hlow, hroom, hwritten⟩ := h
  refine (decodeBytes_eq_ok src s _).mpr ⟨(checkFrameLength_eq_ok s _ ()).mpr ⟨hgroups, hlow, hroom⟩, _,
    readSeq_of_written s _ _ hwf hwritten, ?_⟩
  have hlen : s.lenOf (bitRegion src) = 8 * (s.lenOf (bitRegion src) / 8) := by omega
  calc groupBytes src s
      = (List.range (s.lenOf (bitRegion src) / 8)).map (byteAt (s.bitAt (bitRegion src))) :=
        List.map_congr_left fun g _ => groupByte_eq_byteAt s _ g
    _ = bytesOf ((List.range (s.lenOf (bitRegion src))).map (s.bitAt (bitRegion src))) := by
        rw [← bytesOf_range, ← hlen]
    _ = _ := by rw [List.map_map]; rfl

/-- The writes that DECODE and COMPARE share, on bytes that they read (R132). -/
structure DecodedFrame (src : BitSource) (s t : State) : Prop where
  kept : KeepsElements [.dtext] s t
  length : t.lenOf .dtext = (s.lenOf (bitRegion src) - 96) / 8
  fields : ∀ k : Fin 12, t.dfield[k].toInt = byteField (s.groupByte (bitRegion src) k.val)
  text : ∀ j, j < t.lenOf .dtext →
    t.elem .dtext j = some (BitVec.ofNat 64 (s.groupByte (bitRegion src) (12 + j)))

theorem drop_groupBytes {src : BitSource} {s : State} (h : 96 ≤ s.lenOf (bitRegion src)) :
    (groupBytes src s).drop 12 = (List.range ((s.lenOf (bitRegion src) - 96) / 8)).map
      fun j => s.groupByte (bitRegion src) (12 + j) := by
  have hlen : s.lenOf (bitRegion src) / 8 = 12 + (s.lenOf (bitRegion src) - 96) / 8 := by omega
  rw [groupBytes, hlen, List.range_add, List.map_append, List.drop_left' (by simp), List.map_map]
  rfl

theorem decodedInto_frame {src : BitSource} {s : State} (h : DecodeReady src s) :
    DecodedFrame src s (decodedInto s (groupBytes src s)) := by
  obtain ⟨-, -, hlow, -, -⟩ := h
  have hbyte {g : Nat} (hg : g < s.lenOf (bitRegion src) / 8) :
      (groupBytes src s)[g]? = some (s.groupByte (bitRegion src) g) := by simp [groupBytes, hg]
  have hlength : (decodedInto s (groupBytes src s)).lenOf .dtext = (s.lenOf (bitRegion src) - 96) / 8 := by
    rw [lenOf_decodedInto, groupBytes, List.length_map, List.length_range]
    omega
  refine ⟨keepsElements_putSeq s .dtext _, hlength, fun k => ?fields, fun j hj => ?text⟩
  case fields =>
    change (decodedFields (groupBytes src s))[k].toInt = _
    rw [decodedFields_getElem, List.getD_eq_getElem?_getD, hbyte (by omega), Option.getD_some,
      toInt_fieldValue_eq_byteField (groupByte_lt _ _ _)]
  case text =>
    rw [hlength] at hj
    exact elem_decodedInto s (hbyte (by omega)) (groupByte_lt _ _ _)

/-- Settles O21: DECODE reads the groups' bytes and writes the frame they make. -/
theorem decodeReadsTheFrame : Obligations.DecodeReadsTheFrame := by
  intro src s h
  obtain ⟨hkept, hlength, hfields, htext⟩ := decodedInto_frame h
  exact ⟨_, exec_decode_of_bytes (decodeBytes_of_ready h), rfl, hkept, hlength, hfields, htext⟩

/-! ### COMPARE -/

/-- The text differs in length or in a character; without a text frame it is not compared (R134). -/
def TextMismatch (src : BitSource) (s : State) : Prop :=
  s.frameKind = true ∧
    ((s.lenOf (bitRegion src) - 96) / 8 ≠ s.lenOf .text ∨
      ∃ j, j < (s.lenOf (bitRegion src) - 96) / 8 ∧
        s.groupByte (bitRegion src) (12 + j) ≠ s.codePointAt .text j)

theorem textDiffers_of_ready {src : BitSource} {s : State} (h : CompareReady src s) :
    ∃ d, textDiffers ((groupBytes src s).drop 12) s = .ok d ∧ (d = true ↔ TextMismatch src s) := by
  obtain ⟨⟨hwf, -, hlow, -, -⟩, hwritten⟩ := h
  rw [textDiffers, drop_groupBytes hlow, TextMismatch]
  cases hkind : s.frameKind with
  | false => exact ⟨false, rfl, by simp⟩
  | true =>
    by_cases hlen : (s.lenOf (bitRegion src) - 96) / 8 = s.lenOf .text
    · have hread := readSeq_of_written s .text _ hwf (hwritten hkind hlen)
      simp only [List.length_map, List.length_range, hlen, bne_self_eq_false, readAll, hread, ok_bind]
      refine ⟨_, rfl, ?_⟩
      simp [List.map_inj_left, State.codePointAt]
    · exact ⟨true, by simp [hlen], by simp [hlen]⟩

theorem exec_compare_of_bytes {src : BitSource} {s : State} {bytes : List Nat} {d : Bool}
    (h : decodeBytes src s = .ok bytes) (hd : textDiffers (bytes.drop 12) s = .ok d) :
    exec (.compare src) s = .next (completeOk { decodedInto s bytes with
      mismatch := BitVec.ofNat 13 (maskOf (fieldDiffs (decodedFields bytes) s ++ [d]))
      cmpOk := maskOf (fieldDiffs (decodedFields bytes) s ++ [d]) == 0 }) := by
  have hrule := (compareRule_eq_ok src s _).mpr ⟨bytes, h, d, hd, rfl⟩
  rw [exec, execCompare, hrule, complete_ok]

/-- Bits of MISMATCH: one for each field, and bit 12 for the text (R134). -/
theorem getLsbD_mismatch (df : Vector Word 12) (s : State) (d : Bool) :
    let m := BitVec.ofNat 13 (maskOf (fieldDiffs df s ++ [d]))
    (∀ k : Fin 12, m.getLsbD k.val = (df[k].toInt != s.field[k].toInt)) ∧ m.getLsbD 12 = d := by
  intro m
  have hbit (k : Nat) (hk : k < 13) : m.getLsbD k = (fieldDiffs df s ++ [d]).getD k false := by
    rw [BitVec.getLsbD_ofNat, testBit_maskOf, decide_eq_true hk, Bool.true_and]
  constructor
  · intro k
    rw [hbit k (by omega), List.getD_append _ _ _ _ (by simp), fieldDiffs_getD]
  · rw [hbit 12 (by omega), List.getD_append_right _ _ _ _ (by simp)]
    simp

/-- The mask of the thirteen differences fits MISMATCH, so CMP_OK may be read off the register. -/
theorem mismatch_eq_zero_iff (df : Vector Word 12) (s : State) (d : Bool) :
    BitVec.ofNat 13 (maskOf (fieldDiffs df s ++ [d])) = 0 ↔ maskOf (fieldDiffs df s ++ [d]) = 0 := by
  have hlt : maskOf (fieldDiffs df s ++ [d]) < 2 ^ 13 := by simpa using maskOf_lt (fieldDiffs df s ++ [d])
  rw [← BitVec.toNat_inj, BitVec.toNat_ofNat, Nat.mod_eq_of_lt hlt]
  rfl

/-- Settles O22: COMPARE writes DECODE's frame, and the bits of its mask are the differences. -/
theorem compareMarksTheDifferences : Obligations.CompareMarksTheDifferences := by
  intro src s h
  obtain ⟨hkept, hlength, hfields, htext⟩ := decodedInto_frame h.1
  obtain ⟨d, hd, hdiffers⟩ := textDiffers_of_ready h
  obtain ⟨hbits, hbit12⟩ := getLsbD_mismatch (decodedFields (groupBytes src s)) s d
  have hzero := mismatch_eq_zero_iff (decodedFields (groupBytes src s)) s d
  refine ⟨_, exec_compare_of_bytes (decodeBytes_of_ready h.1) hd, rfl, hkept, hlength, hfields, htext,
    fun k => ?field, ?text, ?ok⟩
  case field => exact (Bool.eq_iff_iff.mp (hbits k)).trans bne_iff_ne
  case text =>
    rw [TextMismatch, ← hlength] at hdiffers
    exact (Bool.eq_iff_iff.mp hbit12).trans hdiffers
  case ok => exact beq_iff_eq.trans hzero.symm

/-! ### CHECKSUM -/

theorem exec_checksum_of_inRange {s : State} (h : FieldsInRange s) :
    exec .checksum s = .next (completeOk { s with
      cksumSum := BitVec.ofNat 12 (checksumSum s)
      cksum := BitVec.ofNat 8 (checksumSum s % 256) }) := by
  have hrule := (checksumRule_eq_ok s _).mpr ⟨(fieldsInRange_iff s).mp h, rfl⟩
  rw [exec, execChecksum, hrule, complete_ok]

/-- CHECKSUM completes without error only on fields in range (R133). -/
theorem fieldsInRange_of_exec_checksum {s t : State} (h : exec .checksum s = .next t) (ht : t.err = false) :
    FieldsInRange s := by
  obtain ⟨u, hu, -⟩ | ⟨e, -, rfl⟩ := (complete_eq_next s t _).mp h
  · obtain ⟨hfields, -⟩ := (checksumRule_eq_ok s u).mp hu
    exact (fieldsInRange_iff s).mpr hfields
  · cases ht

/-- Settles O23: twelve bytes sum to at most 3060, so CKSUM_SUM holds the untruncated sum. -/
theorem checksumSumsTheFieldBytes : Obligations.ChecksumSumsTheFieldBytes := by
  refine ⟨decode_encode .checksum, fun s => ⟨fun h => ?inRange, fun k hk hbefore => ?outOfRange⟩⟩
  case inRange =>
    have hle := checksumSum_le s
    have hsum : (BitVec.ofNat 12 (checksumSum s)).toNat = checksumSum s := Nat.mod_eq_of_lt (by omega)
    have hlow : (BitVec.ofNat 8 (checksumSum s % 256)).toNat = checksumSum s % 256 :=
      Nat.mod_eq_of_lt (by omega)
    refine ⟨_, exec_checksum_of_inRange h, rfl, ?_, ?_, ?_⟩ <;>
      simp only [completeOk_cksum, completeOk_cksumSum, hsum, hlow]
    · rw [checksumSum, fieldBytes_eq]
      rfl
    · exact hle
  case outOfRange =>
    rw [exec, execChecksum, checksumRule, checkFields_of_first hk hbefore, error_bind, complete_raise]

/-- Settles O24: the check and the sum read nothing but FIELD. -/
theorem checksumDependsOnFieldsAlone : Obligations.ChecksumDependsOnFieldsAlone := by
  intro s s' t hfield h ht
  have hs : FieldsInRange s := fieldsInRange_of_exec_checksum h ht
  have hs' : FieldsInRange s' := fun k => hfield ▸ hs k
  have hsum : checksumSum s' = checksumSum s := by rw [checksumSum, checksumSum, fieldBytes, fieldBytes, hfield]
  cases (exec_checksum_of_inRange hs).symm.trans h
  exact ⟨_, exec_checksum_of_inRange hs', rfl, by simp [hsum], by simp [hsum]⟩

/-! ### The round trip (R135) -/

/-- DECODE of the bits that ENCODE laid out reads the frame's bytes. -/
theorem decodeBytes_of_encoded {s : State} (h : EncodeReady s) (hroom : textCount s ≤ s.cap .dtext) :
    decodeBytes .bits (completeOk (s.putSeq .bits (frameElems s))) = .ok (frameBytes s) := by
  have hlen : (completeOk (s.putSeq .bits (frameElems s))).lenOf .bits = (frameElems s).length := by simp
  refine (decodeBytes_eq_ok .bits _ _).mpr ⟨?check, frameElems s, ?read, ?bytes⟩
  case check =>
    have hcap : (completeOk (s.putSeq .bits (frameElems s))).cap .dtext = s.cap .dtext := rfl
    refine (checkFrameLength_eq_ok _ _ ()).mpr ?_
    rw [bitRegion, hlen, hcap, frameElems_length]
    omega
  case read =>
    rw [bitRegion, readAll, hlen]
    exact readSeq_putSeq_same s .bits (frameElems s)
  case bytes => rw [map_elemBit_frameElems, bytesOf_flatMap_byteBits (frameBytes_lt h)]

theorem decodedFields_frameBytes {s : State} (h : FieldsInRange s) :
    decodedFields (frameBytes s) = s.field := by
  refine Vector.ext fun i hi => ?_
  obtain ⟨hlow, hhigh⟩ := h ⟨i, hi⟩
  have hbyte : (frameBytes s).getD i 0 = fieldByte s.field[i] := by
    rw [List.getD_eq_getElem?_getD, frameBytes_field s ⟨i, hi⟩]
    rfl
  have hfield := decodedFields_getElem (frameBytes s) ⟨i, hi⟩
  rw [hbyte] at hfield
  exact hfield.trans (fieldValue_fieldByte hlow hhigh)

/-- The writes of DECODE on a frame's bytes are the frame, whatever else the state holds. -/
theorem decodedInto_frameBytes {s : State} (h : EncodeReady s) (t : State) :
    (decodedInto t (frameBytes s)).dfield = s.field ∧
      (decodedInto t (frameBytes s)).lenOf .dtext = textCount s ∧
      ∀ j, j < textCount s →
        (decodedInto t (frameBytes s)).elem .dtext j = some (BitVec.ofNat 64 (s.codePointAt .text j)) :=
  ⟨decodedFields_frameBytes h.1, by simp, fun j hj =>
    have hbyte := frameBytes_text s hj
    elem_decodedInto t hbyte (frameBytes_lt h _ (List.mem_of_getElem? hbyte))⟩

/-- A state with the same parameters that holds the same fields and text encodes the same frame. -/
theorem encodeReady_of_same_frame {s v : State} (h : EncodeReady s) (hparams : v.params = s.params)
    (hfield : v.field = s.field) (hcount : textCount v = textCount s)
    (htext : ∀ j, j < textCount s → v.elem .text j = some (BitVec.ofNat 64 (s.codePointAt .text j))) :
    EncodeReady v ∧ frameElems v = frameElems s := by
  obtain ⟨hrange, -, hascii, hroom⟩ := h
  have hcap : v.cap .bits = s.cap .bits := by rw [State.cap, State.cap, hparams]
  have hcode (j : Nat) (hj : j < textCount s) : v.codePointAt .text j = s.codePointAt .text j := by
    have hle := hascii j hj
    rw [codePointAt_of_elem (htext j hj), elemCodePoint, BitVec.toNat_ofNat]
    omega
  refine ⟨⟨fun k => hfield ▸ hrange k, fun j hj => ?written, fun j hj => ?ascii, ?room⟩, ?same⟩
  case written => simp [htext j (hcount ▸ hj)]
  case ascii => exact hcode j (hcount ▸ hj) ▸ hascii j (hcount ▸ hj)
  case room => rwa [hcount, hcap]
  case same =>
    have hcodes : textCodes v = textCodes s := by
      rw [textCodes, textCodes, hcount]
      exact List.map_congr_left fun j hj => hcode j (List.mem_range.mp hj)
    rw [frameElems, frameElems, frameBytes, frameBytes, fieldBytes, fieldBytes, hfield, hcodes]

/-- Settles O25: the bytes come back whole, so DECODE writes the frame ENCODE read, and a state that holds
it has the same bits to write. -/
theorem codecRoundTrip : Obligations.CodecRoundTrip := by
  intro s _ h hroom
  obtain ⟨hfields, hlength, htext⟩ := decodedInto_frameBytes h (completeOk (s.putSeq .bits (frameElems s)))
  refine ⟨_, _, exec_encode_of_ready h, exec_decode_of_bytes (decodeBytes_of_encoded h hroom), rfl, hfields,
    hlength, htext, fun v hparams hv hcount hvtext => ?_⟩
  have hcount' : textCount v = textCount s := hcount.trans hlength
  obtain ⟨hready, hsame⟩ := encodeReady_of_same_frame h hparams (hv.trans hfields) hcount' fun j hj =>
    (hvtext j (hcount' ▸ hj)).trans (htext j hj)
  refine ⟨_, exec_encode_of_ready hready, by simp [hcount'], fun k hk => ?_⟩
  have hk' : k < 96 + 8 * textCount s := by simpa using hk
  simp [hsame, hk']

end Sys2Proof.Machine
end

section
/-! The generator of 42_spreading.md R161: what one step does to each bit, and the period 65535 of every
non-zero state. -/

namespace Sys2Proof.Machine

/-! ### One step -/

/-- The state after one step. -/
def lfsrNext (x : BitVec 16) : BitVec 16 := (lfsrStep x).2

/-- The bit a step puts into bit 15 (R161). -/
def feedback (x : BitVec 16) : Bool :=
  ((x.getLsbD 0 ^^ x.getLsbD 2) ^^ x.getLsbD 3) ^^ x.getLsbD 5

theorem lfsrNext_getLsbD (x : BitVec 16) (j : Nat) :
    (lfsrNext x).getLsbD j = (x.getLsbD (j + 1) || (feedback x && decide (15 = j))) := by
  have hnext : lfsrNext x = x >>> 1 ||| if feedback x then BitVec.twoPow 16 15 else 0 := rfl
  rw [hnext, BitVec.getLsbD_or, BitVec.getLsbD_ushiftRight, Nat.add_comm 1 j]
  cases feedback x <;> simp [BitVec.getLsbD_twoPow]

theorem lfsrNext_getLsbD_low (x : BitVec 16) {j : Nat} (hj : j < 15) :
    (lfsrNext x).getLsbD j = x.getLsbD (j + 1) := by
  simp [lfsrNext_getLsbD, show 15 ≠ j by omega]

theorem lfsrNext_getLsbD_last (x : BitVec 16) : (lfsrNext x).getLsbD 15 = feedback x := by
  rw [lfsrNext_getLsbD, BitVec.getLsbD_of_ge x _ (le_refl 16)]
  simp

theorem feedback_xor (x y : BitVec 16) : feedback (x ^^^ y) = (feedback x ^^ feedback y) := by
  simp only [feedback, BitVec.getLsbD_xor, Bool.xor_assoc, Bool.xor_left_comm]

theorem lfsrAfter_eq_iterate (k : Nat) (x : BitVec 16) : lfsrAfter k x = lfsrNext^[k] x := by
  induction k generalizing x with
  | zero => rfl
  | succ k ih => exact ih (lfsrNext x)

/-! ### Functions that respect the exclusive or

A step is linear over GF(2), so what many steps do is known from what they do to the sixteen states with one
bit set. -/

/-- `f` takes the exclusive or of two states to that of their images. -/
def XorLinear (f : BitVec 16 → BitVec 16) : Prop :=
  ∀ x y, f (x ^^^ y) = f x ^^^ f y

theorem XorLinear.zero {f : BitVec 16 → BitVec 16} (hf : XorLinear f) : f 0 = 0 := by
  simpa using hf 0 0

theorem xorLinear_lfsrNext : XorLinear lfsrNext := by
  intro x y
  refine BitVec.eq_of_getLsbD_eq fun j hj => ?_
  obtain hj' | rfl : j < 15 ∨ j = 15 := by omega
  · simp only [BitVec.getLsbD_xor, lfsrNext_getLsbD_low _ hj']
  · simp only [BitVec.getLsbD_xor, lfsrNext_getLsbD_last, feedback_xor]

theorem XorLinear.iterate {f : BitVec 16 → BitVec 16} (hf : XorLinear f) (k : Nat) : XorLinear f^[k] := by
  induction k with
  | zero => exact fun _ _ => rfl
  | succ k ih => exact fun x y => by rw [Function.iterate_succ_apply, hf, ih]; rfl

theorem xorLinear_shiftLeft (n : Nat) : XorLinear (· <<< n) :=
  fun x y => BitVec.shiftLeft_xor_distrib x y n

/-- The exclusive or of the columns at the bits that are set in a state. -/
def combine : List (BitVec 16) → BitVec 16 → BitVec 16
  | [], _ => 0
  | c :: cs, x => (if x.getLsbD 0 then c else 0) ^^^ combine cs (x >>> 1)

theorem combine_map {f : BitVec 16 → BitVec 16} (hf : XorLinear f) (cols : List (BitVec 16))
    (x : BitVec 16) : combine (cols.map f) x = f (combine cols x) := by
  induction cols generalizing x with
  | nil => exact hf.zero.symm
  | cons c cs ih =>
    rw [List.map_cons, combine, combine, hf, ih]
    split
    · rfl
    · rw [hf.zero]

/-- The states `1, 2, 4, …` with one of the low `n` bits set. -/
def unitStates : Nat → List (BitVec 16)
  | 0 => []
  | n + 1 => 1 :: (unitStates n).map fun x : BitVec 16 => x <<< 1

theorem combine_unitStates {n : Nat} {x : BitVec 16} (hx : x.toNat < 2 ^ n) :
    combine (unitStates n) x = x := by
  induction n generalizing x with
  | zero => exact (BitVec.eq_of_toNat_eq (by simpa using hx : x.toNat = 0)).symm
  | succ n ih =>
    have hshift : combine (unitStates n) (x >>> 1) = x >>> 1 := ih (by
      rw [BitVec.toNat_ushiftRight, Nat.shiftRight_eq_div_pow]
      omega)
    rw [unitStates, combine, combine_map (xorLinear_shiftLeft 1), hshift]
    refine BitVec.eq_of_getLsbD_eq fun j hj => ?_
    cases j with
    | zero => cases x.getLsbD 0 <;> simp
    | succ j => cases x.getLsbD 0 <;> simp [hj, Nat.add_comm 1 j]

/-- A linear function is what it does to the sixteen states with one bit set. -/
theorem combine_columns {f : BitVec 16 → BitVec 16} (hf : XorLinear f) (x : BitVec 16) :
    combine ((unitStates 16).map f) x = f x := by
  rw [combine_map hf, combine_unitStates x.isLt]

/-! ### Jumping ahead -/

/-- Where `2 ^ k` steps take the states with one bit set: twice as many steps are one table applied to
itself. -/
def jumpTable : Nat → List (BitVec 16)
  | 0 => (unitStates 16).map lfsrNext
  | k + 1 => (jumpTable k).map (combine (jumpTable k))

theorem jumpTable_eq (k : Nat) : jumpTable k = (unitStates 16).map lfsrNext^[2 ^ k] := by
  induction k with
  | zero => rfl
  | succ k ih =>
    have hjump : combine (jumpTable k) = lfsrNext^[2 ^ k] :=
      funext fun x => by rw [ih, combine_columns (xorLinear_lfsrNext.iterate _)]
    rw [jumpTable, hjump, ih, List.map_map, ← Function.iterate_add, ← Nat.two_pow_succ]

theorem combine_jumpTable (k : Nat) (x : BitVec 16) : combine (jumpTable k) x = lfsrNext^[2 ^ k] x := by
  rw [jumpTable_eq, combine_columns (xorLinear_lfsrNext.iterate _)]

/-- Jumps of `2 ^ k` steps for each `k` of a list. -/
def jumps (ks : List Nat) (x : BitVec 16) : BitVec 16 :=
  ks.foldr (fun k y => combine (jumpTable k) y) x

theorem jumps_eq_iterate (ks : List Nat) (x : BitVec 16) :
    jumps ks x = lfsrNext^[(ks.map (2 ^ ·)).sum] x := by
  induction ks with
  | nil => rfl
  | cons k ks ih =>
    rw [List.map_cons, List.sum_cons, Function.iterate_add_apply, ← ih, ← combine_jumpTable]
    rfl

theorem isPeriodicPt_iff_jumps (ks : List Nat) (x : BitVec 16) :
    Function.IsPeriodicPt lfsrNext (ks.map (2 ^ ·)).sum x ↔ jumps ks x = x := by
  rw [jumps_eq_iterate]
  rfl

/-! ### The period -/

/-- A period is the least one when dividing it by a prime gives no period. -/
theorem minimalPeriod_eq_of_div_prime {α : Type} {f : α → α} {x : α} {n : Nat}
    (hperiod : Function.IsPeriodicPt f n x)
    (hprime : ∀ p, p.Prime → p ∣ n → ¬ Function.IsPeriodicPt f (n / p) x) :
    Function.minimalPeriod f x = n := by
  obtain ⟨d, hd⟩ := hperiod.minimalPeriod_dvd
  by_cases hd1 : d = 1
  · rw [hd, hd1, mul_one]
  · obtain ⟨p, hp, q, rfl⟩ := Nat.exists_prime_and_dvd hd1
    have hquot : n / p = Function.minimalPeriod f x * q :=
      Nat.div_eq_of_eq_mul_left hp.pos (by rw [hd]; ring)
    refine absurd ?_ (hprime p hp ⟨Function.minimalPeriod f x * q, by rw [hd]; ring⟩)
    rw [hquot]
    exact (Function.isPeriodicPt_minimalPeriod f x).mul_const q

theorem eq_of_prime_dvd_65535 {p : Nat} (hp : p.Prime) (hdvd : p ∣ 65535) :
    p = 3 ∨ p = 5 ∨ p = 17 ∨ p = 257 := by
  rw [show 65535 = 3 * (5 * (17 * 257)) by norm_num, hp.dvd_mul, hp.dvd_mul, hp.dvd_mul] at hdvd
  norm_num [Nat.prime_dvd_prime_iff_eq hp] at hdvd
  exact hdvd

/-- The state 1 recurs after 65535 steps, and not after a third, a fifth, a seventeenth or a 257th of
them. -/
theorem minimalPeriod_one : Function.minimalPeriod lfsrNext 1 = 65535 := by
  refine minimalPeriod_eq_of_div_prime
    ((isPeriodicPt_iff_jumps (List.range 16) 1).mpr (by decide +kernel)) fun p hp hdvd => ?_
  obtain rfl | rfl | rfl | rfl := eq_of_prime_dvd_65535 hp hdvd
  · exact (isPeriodicPt_iff_jumps [0, 2, 4, 6, 8, 10, 12, 14] 1).not.mpr (by decide +kernel)
  · exact (isPeriodicPt_iff_jumps [0, 1, 4, 5, 8, 9, 12, 13] 1).not.mpr (by decide +kernel)
  · exact (isPeriodicPt_iff_jumps [0, 1, 2, 3, 8, 9, 10, 11] 1).not.mpr (by decide +kernel)
  · exact (isPeriodicPt_iff_jumps [0, 1, 2, 3, 4, 5, 6, 7] 1).not.mpr (by decide +kernel)

theorem iterate_lfsrNext_ne_zero (k : Nat) {x : BitVec 16} (hx : x ≠ 0) : lfsrNext^[k] x ≠ 0 := by
  induction k generalizing x with
  | zero => exact hx
  | succ k ih => exact ih (lfsrStep_ne_zero hx)

/-- The 65535 states on the orbit of 1 are distinct and not 0, and there are no more states than that. -/
theorem exists_iterate_one_eq {x : BitVec 16} (hx : x ≠ 0) : ∃ i, lfsrNext^[i] 1 = x := by
  have hinj : Set.InjOn (lfsrNext^[·] 1) (Finset.range 65535) := by
    have h := Function.iterate_injOn_Iio_minimalPeriod (f := lfsrNext) (x := 1)
    rwa [minimalPeriod_one, ← Finset.coe_range] at h
  have hsub : (Finset.range 65535).image (lfsrNext^[·] 1) ⊆ Finset.univ.erase 0 := fun y hy => by
    obtain ⟨i, -, rfl⟩ := Finset.mem_image.mp hy
    simpa using iterate_lfsrNext_ne_zero i (by decide)
  have hcard : (Finset.univ.erase (0 : BitVec 16)).card ≤
      ((Finset.range 65535).image (lfsrNext^[·] 1)).card := by
    rw [Finset.card_image_of_injOn hinj, Finset.card_range, Finset.card_erase_of_mem (Finset.mem_univ _),
      Finset.card_univ, ← FinEnum.card_eq_fintypeCard, FinEnum.card_bitVec]
    norm_num
  have hmem := Finset.eq_of_subset_of_card_le hsub hcard ▸ Finset.mem_erase.mpr ⟨hx, Finset.mem_univ x⟩
  obtain ⟨i, -, hi⟩ := Finset.mem_image.mp hmem
  exact ⟨i, hi⟩

/-- Every other non-zero state lies on the orbit of 1. -/
theorem minimalPeriod_of_ne_zero {x : BitVec 16} (hx : x ≠ 0) :
    Function.minimalPeriod lfsrNext x = 65535 := by
  obtain ⟨i, rfl⟩ := exists_iterate_one_eq hx
  have hperiodic : (1 : BitVec 16) ∈ Function.periodicPts lfsrNext :=
    Function.minimalPeriod_pos_iff_mem_periodicPts.mp (by rw [minimalPeriod_one]; decide)
  rw [Function.minimalPeriod_apply_iterate hperiodic, minimalPeriod_one]

theorem lfsrAfter_period {x : BitVec 16} (hx : x ≠ 0) :
    lfsrAfter 65535 x = x ∧ ∀ k, 0 < k → k < 65535 → lfsrAfter k x ≠ x := by
  have hmin := minimalPeriod_of_ne_zero hx
  refine ⟨?recurs, fun k hpos hlt => ?notBefore⟩
  case recurs =>
    rw [lfsrAfter_eq_iterate, ← hmin]
    exact Function.iterate_minimalPeriod
  case notBefore =>
    rw [lfsrAfter_eq_iterate]
    exact Function.not_isPeriodicPt_of_pos_of_lt_minimalPeriod (by omega) (by omega)

/-- Settles O27: the bits of one step, the period of every non-zero state, and eight steps from the reset
seed evaluated. -/
theorem generatorStepAndPeriod : Obligations.GeneratorStepAndPeriod :=
  ⟨fun x => ⟨rfl, fun _ hj => lfsrNext_getLsbD_low x hj, lfsrNext_getLsbD_last x⟩,
    fun _ hx => lfsrAfter_period hx, by decide, by decide, by decide⟩

end Sys2Proof.Machine
end

section
/-! The commands of the spreading engine (42_spreading.md): PN_SEED, the code that PN_GEN writes, the chips
that SPREAD writes, and the spreading law. -/

namespace Sys2Proof.Machine

/-! ### PN_SEED -/

theorem exec_pnSeed (s : State) : exec .pnSeed s = .next (completeOk { s with lfsr := s.seed }) := rfl

/-- Settles O26: the rule has no check, so every state completes with LFSR = SEED. -/
theorem pnSeedLoadsTheGenerator : Obligations.PnSeedLoadsTheGenerator := by
  refine ⟨decode_encode .pnSeed, exec_pnSeed, fun s t hseed h => ?_⟩
  cases (exec_pnSeed s).symm.trans h
  exact hseed

/-! ### PN_GEN -/

/-- The generator's run ends where its single steps end (R161, R162). -/
theorem lfsrRun_state (n : Nat) (x : BitVec 16) : (lfsrRun n x).2 = lfsrAfter n x := by
  induction n generalizing x with
  | zero => rfl
  | succ n ih => exact ih (lfsrStep x).2

/-- Output bit `k` of a run is the bit that the step from the state after `k` steps puts out. -/
theorem lfsrRun_getElem? {n k : Nat} (hk : k < n) (x : BitVec 16) :
    (lfsrRun n x).1[k]? = some (lfsrStep (lfsrAfter k x)).1 := by
  induction n generalizing k x with
  | zero => omega
  | succ n ih =>
    cases k with
    | zero => rfl
    | succ k => exact ih (Nat.lt_of_succ_lt_succ hk) (lfsrStep x).2

/-- The state PN_GEN completes with: the source advanced, and its bits in the code region. -/
def codeWritten (dst : CodeSel) (src : PnSource) (s : State) : State :=
  (pnCode src s.sf.toInt.toNat s).2.putSeq (codeRegion dst) ((pnCode src s.sf.toInt.toNat s).1.map bitElem)

theorem exec_pnGen_of_configured {s : State} (hcfg : s.cfgValid = true) (dst : CodeSel) (src : PnSource) :
    exec (.pnGen dst src) s = .next (completeOk (codeWritten dst src s)) := by
  have hrule : pnGenRule dst src s = .ok (codeWritten dst src s) :=
    (pnGenRule_eq_ok dst src s _).mpr ⟨hcfg, rfl⟩
  rw [exec, execPnGen, hrule, complete_ok]

theorem lenOf_codeWritten (dst : CodeSel) (src : PnSource) (s : State) :
    (codeWritten dst src s).lenOf (codeRegion dst) = s.sf.toInt.toNat := by
  simp [codeWritten, pnCode_length]

theorem elem_codeWritten {s : State} {k : Nat} (hk : k < s.sf.toInt.toNat) (dst : CodeSel) (src : PnSource) :
    (codeWritten dst src s).elem (codeRegion dst) k =
      ((pnCode src s.sf.toInt.toNat s).1[k]?).map bitElem := by
  simp [codeWritten, pnCode_length, hk]

/-- Advancing a source touches no region. -/
theorem keepsElements_codeWritten (dst : CodeSel) (src : PnSource) (s : State) :
    KeepsElements [codeRegion dst] s (codeWritten dst src s) := by
  cases src <;> exact keepsElements_putSeq s (codeRegion dst) _

/-- Settles O28: either source's bits are what the code region holds, and the source is all else that
changes. -/
theorem pnGenWritesACode : Obligations.PnGenWritesACode := by
  intro dst s hcfg
  constructor
  · refine ⟨_, exec_pnGen_of_configured hcfg dst .lfsr, rfl, keepsElements_codeWritten dst .lfsr s,
      lenOf_codeWritten dst .lfsr s, lfsrRun_state _ _, fun k hk => ?_⟩
    rw [elem_completeOk, elem_codeWritten hk, pnCode, lfsrRun_getElem? hk, Option.map_some]
  · refine ⟨_, exec_pnGen_of_configured hcfg dst .entropy, rfl, keepsElements_codeWritten dst .entropy s,
      lenOf_codeWritten dst .entropy s, fun bs rest hsupply hlen k hk => ?_⟩
    obtain ⟨hdrawn, -⟩ := drawEntropy_supplied s bs rest hsupply
    rw [elem_completeOk, elem_codeWritten hk, pnCode, ← hlen, hdrawn]

/-! ### SPREAD -/

/-- The first `n` elements of a region as bits. -/
def bitsOf (s : State) (r : Region) (n : Nat) : List Bool :=
  (List.range n).map (s.bitAt r)

@[simp] theorem bitsOf_length (s : State) (r : Region) (n : Nat) : (bitsOf s r n).length = n := by
  simp [bitsOf]

theorem readBits_of_written {s : State} {r : Region} {n : Nat} (hwf : s.mem.wf = true) (h : Written s r n) :
    ∃ ws, readSeq s r n = .ok ws ∧ ws.map elemBit = bitsOf s r n :=
  ⟨_, readSeq_of_written s r n hwf h, by rw [List.map_map]; rfl⟩

theorem written_of_readSeq {s : State} {r : Region} {n : Nat} {ws : List Word} (h : readSeq s r n = .ok ws) :
    Written s r n := by
  obtain ⟨hlen, hread⟩ := readSeq_ok s r n ws h
  intro i hi
  simp [hread i hi, hlen, hi]

/-- The chips that SPREAD writes. -/
def chipsOf (sel : CodeSel) (s : State) : List Bool :=
  spreadChips (bitsOf s .bits (s.lenOf .bits)) (bitsOf s (codeRegion sel) (s.lenOf (codeRegion sel)))

@[simp] theorem chipsOf_length (sel : CodeSel) (s : State) :
    (chipsOf sel s).length = s.lenOf .bits * s.lenOf (codeRegion sel) := by
  simp [chipsOf]

/-- Chip `k` belongs to bit `k div F` and to code value `k mod F` (R164). -/
theorem chipsOf_getElem? {sel : CodeSel} {s : State} {k : Nat}
    (hk : k < s.lenOf .bits * s.lenOf (codeRegion sel)) :
    (chipsOf sel s)[k]? = some (bipMul (s.bitAt .bits (k / s.lenOf (codeRegion sel)))
      (s.bitAt (codeRegion sel) (k % s.lenOf (codeRegion sel)))) := by
  have hpos : 0 < s.lenOf (codeRegion sel) := Nat.pos_of_lt_mul_left hk
  have hdiv : k / s.lenOf (codeRegion sel) < s.lenOf .bits := (Nat.div_lt_iff_lt_mul hpos).mpr hk
  have hchip := spreadChips_getElem? (bitsOf s .bits (s.lenOf .bits))
    (bitsOf s (codeRegion sel) (s.lenOf (codeRegion sel))) (k / s.lenOf (codeRegion sel)) _
    (by simpa using Nat.mod_lt k hpos)
  simp only [bitsOf_length, Nat.div_add_mod'] at hchip
  rw [chipsOf, hchip]
  simp [bitsOf, hdiv]

/-- With no bit to spread the code is not read, and there are no chips (R164). -/
theorem spreadRule_of_ready {sel : CodeSel} {s : State} (h : SpreadReady sel s) :
    spreadRule sel s = .ok (s.putSeq .chips ((chipsOf sel s).map bitElem)) := by
  obtain ⟨hwf, hcfg, hlen, hroom, hbits, hcode⟩ := h
  obtain ⟨bits, hreadBits, hbitsOf⟩ := readBits_of_written hwf hbits
  rw [spreadRule_eq_ok]
  refine ⟨hcfg, hlen, hroom, bits, hreadBits, ?_⟩
  by_cases hzero : s.lenOf .bits = 0
  · refine ⟨[], by simp [hzero, readSeq, bufTake], ?_⟩
    rw [chipsOf, hbitsOf, hzero]
    rfl
  · obtain ⟨code, hreadCode, hcodeOf⟩ := readBits_of_written hwf (hcode hzero)
    exact ⟨code, by rwa [if_neg hzero], by rw [chipsOf, hbitsOf, hcodeOf]⟩

theorem exec_spread_of_ready {sel : CodeSel} {s : State} (h : SpreadReady sel s) :
    exec (.spread sel) s = .next (completeOk (s.putSeq .chips ((chipsOf sel s).map bitElem))) := by
  rw [exec, execSpread, spreadRule_of_ready h, complete_ok]

/-- SPREAD completes without error only where its checks pass and what it reads is written (R164). -/
theorem spreadReady_of_exec {sel : CodeSel} {s t : State} (hwf : s.mem.wf = true)
    (h : exec (.spread sel) s = .next t) (ht : t.err = false) : SpreadReady sel s := by
  obtain ⟨u, hu, -⟩ | ⟨e, -, rfl⟩ := (complete_eq_next s t _).mp h
  · obtain ⟨hcfg, hlen, hroom, bits, hbits, code, hcode, -⟩ := (spreadRule_eq_ok sel s u).mp hu
    refine ⟨hwf, hcfg, hlen, hroom, written_of_readSeq hbits, fun hne => ?_⟩
    rw [if_neg hne] at hcode
    exact written_of_readSeq hcode
  · cases ht

/-- Settles O29: the rule's sequences read by index, and the chips with them. -/
theorem spreadMultipliesBitsByCode : Obligations.SpreadMultipliesBitsByCode := by
  intro sel s h
  refine ⟨_, exec_spread_of_ready h, ⟨rfl, keepsElements_putSeq s .chips _⟩, ?length, fun k hk => ?chip⟩
  case length => simp
  case chip =>
    have hk' : k < s.lenOf .bits * s.lenOf (codeRegion sel) := by simpa using hk
    rw [elem_completeOk, elem_putSeq, if_pos ⟨rfl, by simpa using hk'⟩, List.getElem?_map,
      chipsOf_getElem? hk', Option.map_some]

/-! ### The spreading law -/

theorem bipInt_bipMul (a b : Bool) : bipInt (bipMul a b) = bipInt a * bipInt b := by
  cases a <;> cases b <;> rfl

/-- A bipolar value is its own inverse, being ±1 (R165). -/
theorem bipInt_mul_self (b : Bool) : bipInt b * bipInt b = 1 := by
  cases b <;> rfl

/-- Settles O30: O29 gives each chip, and the square of a code value is 1. -/
theorem spreadingTwiceGivesTheSymbol : Obligations.SpreadingTwiceGivesTheSymbol := by
  intro sel s t hwf h ht k hk f
  have hready := spreadReady_of_exec hwf h ht
  obtain ⟨t', h', -, -, hchips⟩ := spreadMultipliesBitsByCode sel s hready
  cases h'.symm.trans h
  obtain ⟨-, -, hlen, -⟩ := hready
  have hf : s.lenOf (codeRegion sel) = f := by omega
  have hchip : bipInt (t.bitAt .chips k) =
      bipInt (s.bitAt .bits (k / f)) * bipInt (s.bitAt (codeRegion sel) (k % f)) := by
    rw [State.bitAt, hchips k hk, hf, Option.getD_some, elemBit_bitElem, bipInt_bipMul]
  exact ⟨hchip, by rw [hchip, mul_assoc, bipInt_mul_self, mul_one]⟩

end Sys2Proof.Machine
end

section
/-! The modulator (43_modulator.md R180 to R186): the waveforms of MODULATE and REFGEN by index, the state
MODULATE completes with, its noise errors, and what it depends on. -/

namespace Sys2Proof.Machine

/-! ### The waveforms by index -/

/-- Position `k` of blocks of `m` values laid end to end lies in block `k / m`, at place `k % m`. -/
theorem flatMap_range_blocks {α : Type} (n m : Nat) (f : Nat → Nat → α) :
    ((List.range n).flatMap fun i => (List.range m).map (f i)) =
      (List.range (n * m)).map fun k => f (k / m) (k % m) := by
  induction n with
  | zero => simp
  | succ n ih =>
    have hlast : ∀ j ∈ List.range m, f n j = f ((n * m + j) / m) ((n * m + j) % m) := fun j hj => by
      have hj : j < m := List.mem_range.mp hj
      have hpos : 0 < m := by omega
      rw [Nat.mul_comm n m, Nat.mul_add_div hpos, Nat.mul_add_mod, Nat.div_eq_of_lt hj, Nat.mod_eq_of_lt hj,
        Nat.add_zero]
    rw [List.range_succ, List.flatMap_append, ih, Nat.succ_mul, List.range_add, List.map_append, List.map_map,
      List.flatMap_singleton]
    exact congrArg _ (List.map_congr_left hlast)

/-- `m` samples of the reference carrier: SPLUS over and over (R181, R184). -/
def tiledCarrier (s : State) (m : Nat) : List F64 :=
  (List.range m).map fun k => s.sampleAt .splus (k % s.ns.toNat)

@[simp] theorem tiledCarrier_length (s : State) (m : Nat) : (tiledCarrier s m).length = m := by
  simp [tiledCarrier]

theorem tiledCarrier_getElem? (s : State) {m k : Nat} (hk : k < m) :
    (tiledCarrier s m)[k]? = some (s.sampleAt .splus (k % s.ns.toNat)) := by
  simp [tiledCarrier, hk]

/-- For no chip nothing is read of SPLUS, for any other number all of it. -/
theorem readSplus_of_written {s : State} {n : Nat} (hwf : s.mem.wf = true)
    (h : n ≠ 0 → Written s .splus s.ns.toNat) :
    ∃ sp, readSplus s n = .ok sp ∧ (n ≠ 0 → sp = s.samples .splus s.ns.toNat) := by
  by_cases hn : n = 0
  · exact ⟨[], by simp [readSplus, hn, readSeq, bufTake], fun hne => absurd hn hne⟩
  · exact ⟨_, by rw [readSplus, if_neg hn]; exact readSeq_of_written s .splus _ hwf (h hn), fun _ => rfl⟩

theorem referenceCarrier_eq_tiledCarrier {s : State} {n : Nat} {sp : List F64}
    (hsp : n ≠ 0 → sp = s.samples .splus s.ns.toNat) :
    referenceCarrier n sp = tiledCarrier s (n * s.ns.toNat) := by
  by_cases hn : n = 0
  · simp [hn, referenceCarrier, tiledCarrier]
  · rw [hsp hn, referenceCarrier_eq]
    exact flatMap_range_blocks n s.ns.toNat fun _ j => s.sampleAt .splus j

theorem chipWaveform_eq_cleanWave {s : State} {sp : List F64}
    (hsp : s.lenOf .chips ≠ 0 → sp = s.samples .splus s.ns.toNat) :
    chipWaveform (bitsOf s .chips (s.lenOf .chips)) sp = cleanWave s := by
  by_cases hn : s.lenOf .chips = 0
  · simp [hn, chipWaveform, bitsOf, cleanWave, modulateLength]
  · rw [hsp hn, cleanWave, modulateLength,
      ← flatMap_range_blocks _ _ fun i j => signed (s.bitAt .chips i) (s.sampleAt .splus j)]
    simp [chipWaveform, bitsOf, State.samples, List.flatMap_map, Function.comp_def]

theorem addWaves_map_range (n : Nat) (f g : Nat → F64) :
    addWaves ((List.range n).map f) ((List.range n).map g) =
      (List.range n).map fun k => fadd (f k) (g k) := by
  rw [addWaves, List.zipWith_map, List.zipWith_self]

/-! ### REFGEN -/

theorem exec_refgen_of_ready {x : WaveSel} {s : State} (h : RefgenReady x s) :
    exec (.refgen x) s =
      .next (completeOk (s.putSeq .ref (tiledCarrier s (s.lenOf (waveRegion x))))) := by
  obtain ⟨hwf, hcfg, hwhole, hsplus⟩ := h
  obtain ⟨sp, hread, hsp⟩ := readSplus_of_written (n := s.lenOf (waveRegion x) / s.ns.toNat) hwf
    fun hne => hsplus fun hzero => hne (by rw [hzero, Nat.zero_div])
  have hrule := (refgenRule_eq_ok x s _).mpr ⟨hcfg, hwhole, sp, hread, rfl⟩
  rw [exec, execRefgen, hrule, complete_ok, referenceCarrier_eq_tiledCarrier hsp,
    Nat.div_mul_cancel (Nat.dvd_of_mod_eq_zero hwhole)]

/-- Settles O34: the carrier is as long as the selected waveform, which is a whole number of chips. -/
theorem refgenTilesTheCarrier : Obligations.RefgenTilesTheCarrier := by
  intro x s h
  refine ⟨_, exec_refgen_of_ready h, ⟨rfl, keepsElements_putSeq s .ref _⟩, by simp, fun k hk => ?_⟩
  have hk' : k < s.lenOf (waveRegion x) := by simpa using hk
  rw [elem_completeOk, elem_putSeq, if_pos ⟨rfl, by simpa using hk'⟩, tiledCarrier_getElem? s hk']

/-! ### The noise (R182) -/

@[simp] theorem noiseOf_length (gsrc : GaussSource) (s : State) :
    (noiseOf gsrc s).length = modulateLength s := by
  cases gsrc <;> simp [noiseOf, State.samples]

theorem noiseDraw_of_ready {gsrc : GaussSource} {s : State} (hwf : s.mem.wf = true) (h : NoiseReady gsrc s) :
    noiseDraw gsrc (modulateLength s) s = .ok (noiseOf gsrc s, afterDraw gsrc s) := by
  cases gsrc with
  | internal => rfl
  | gnoise =>
    obtain ⟨-, hwritten⟩ := h rfl
    rw [noiseDraw, readSeq_of_written s .gnoise _ hwf hwritten]
    rfl

/-- A draw changes the environment alone (log entry 6). -/
theorem afterDraw_eq (gsrc : GaussSource) (s : State) :
    afterDraw gsrc s = { s with env := (afterDraw gsrc s).env } := by
  cases gsrc <;> rfl

/-- The draw brought to the norm that SNR_DB asks for. -/
def scaledDraw (gsrc : GaussSource) (s : State) : List F64 :=
  (noiseOf gsrc s).map fun x => fmul x (scaleOf gsrc s)

theorem scaledDraw_eq_map_range (gsrc : GaussSource) (s : State) :
    scaledDraw gsrc s =
      (List.range (modulateLength s)).map fun k => fmul ((noiseOf gsrc s).getD k 0) (scaleOf gsrc s) := by
  refine List.ext_getElem (by simp [scaledDraw]) fun k _ hk => ?_
  have hk' : k < modulateLength s := by simpa using hk
  simp [scaledDraw, hk']

theorem noiseScale_eq_scaleOf (gsrc : GaussSource) (s : State) :
    noiseScale (afterDraw gsrc s) (cleanWave s) (noiseOf gsrc s) = scaleOf gsrc s := by
  cases gsrc <;> rfl

/-! ### The rule of MODULATE on a state that passes its checks -/

/-- The reads that come before the draw, and the waveforms made of them. -/
theorem modulateReads_of_ready {intf : Bool} {s : State} (h : ModulateReady intf s) :
    ∃ chips sp, readAll s .chips = .ok chips ∧ readSplus s (s.lenOf .chips) = .ok sp ∧
      chipWaveform (chips.map elemBit) sp = cleanWave s ∧
      referenceCarrier (s.lenOf .chips) sp = tiledCarrier s (modulateLength s) := by
  obtain ⟨hwf, -, -, hchips, hsplus, -⟩ := h
  obtain ⟨chips, hread, hbits⟩ := readBits_of_written hwf hchips
  obtain ⟨sp, hreadSplus, hsp⟩ := readSplus_of_written hwf hsplus
  exact ⟨chips, sp, hread, hreadSplus, by rw [hbits, chipWaveform_eq_cleanWave hsp],
    referenceCarrier_eq_tiledCarrier hsp⟩

theorem modulateChecks_of_ready {noise intf : Bool} {gsrc : GaussSource} {s : State}
    (h : ModulateReady intf s) (hnoise : noise = true → NoiseReady gsrc s) :
    modulateChecks noise intf gsrc s = .ok () := by
  obtain ⟨-, hcfg, hroom, -, -, hintf⟩ := h
  exact (modulateChecks_eq_ok noise intf gsrc s ()).mpr
    ⟨hcfg, hroom, fun hi => (hintf hi).1, fun hn hsrc => (hnoise hn hsrc).1⟩

/-- What MODULATE builds before it scales noise, and the state that it goes on in. -/
def startOf (noise : Bool) (gsrc : GaussSource) (s : State) : Modulated × State :=
  (⟨cleanWave s, tiledCarrier s (modulateLength s), if noise then noiseOf gsrc s else []⟩,
    if noise then afterDraw gsrc s else s)

theorem modulateStart_clean_of_ready {intf : Bool} {s : State} (h : ModulateReady intf s)
    (gsrc : GaussSource) : modulateStart false intf gsrc s = .ok (startOf false gsrc s) := by
  obtain ⟨chips, sp, hchips, hsp, hwave, href⟩ := modulateReads_of_ready h
  exact (modulateStart_clean_eq_ok intf gsrc s _).mpr
    ⟨modulateChecks_of_ready h (by simp), chips, hchips, sp, hsp, by rw [hwave, href]; rfl⟩

/-- With noise two checks stand between the reads and the draw (R182). -/
theorem modulateStart_noise_of_ready {intf : Bool} {gsrc : GaussSource} {s : State}
    (h : ModulateReady intf s) (hnoise : NoiseReady gsrc s) :
    modulateStart true intf gsrc s = (do
      raiseIf (!isFinite s.snrDb) (.config 9)
      raiseIf (!isFinite (norm (cleanWave s)) || isZero (norm (cleanWave s))) (.config 10)
      .ok (startOf true gsrc s)) := by
  obtain ⟨chips, sp, hchips, hsp, hwave, href⟩ := modulateReads_of_ready h
  rw [modulateStart, modulateChecks_of_ready h fun _ => hnoise, hchips, hsp]
  simp only [ok_bind, hwave, href, noiseDraw_of_ready h.1 hnoise]
  rfl

/-- The checks on the draw and on the scale (R182). -/
theorem scaledNoise_of_draw (gsrc : GaussSource) (s : State) :
    scaledNoise true (afterDraw gsrc s) (cleanWave s) (noiseOf gsrc s) = (do
      raiseIf (!isFinite (norm (noiseOf gsrc s)) || isZero (norm (noiseOf gsrc s))) (.config 11)
      raiseIf (!isFinite (scaleOf gsrc s)) (.config 12)
      .ok (scaledDraw gsrc s, scaleOf gsrc s)) := by
  simp only [scaledNoise, noiseScale_eq_scaleOf, if_true]
  rfl

theorem exec_modulate_of_start {noise intf : Bool} (diag : Bool) {gsrc : GaussSource} {s : State}
    {p : Modulated × State} (h : modulateStart noise intf gsrc s = .ok p) :
    exec (.modulate noise intf diag gsrc) s = complete p.2 (modulateFinish noise intf diag p.1 p.2) := by
  rw [exec, execModulate, h]

theorem exec_modulate_of_start_raises {noise intf : Bool} (diag : Bool) {gsrc : GaussSource} {s : State}
    {e : CmdError} (h : modulateStart noise intf gsrc s = .error (.raise e)) :
    exec (.modulate noise intf diag gsrc) s = .next (takeError e s) := by
  rw [exec, execModulate, h]
  rfl

theorem exec_modulate_of_scaling_raises {intf : Bool} (diag : Bool) {gsrc : GaussSource} {s : State}
    {e : CmdError} (hstart : modulateStart true intf gsrc s = .ok (startOf true gsrc s))
    (h : scaledNoise true (afterDraw gsrc s) (cleanWave s) (noiseOf gsrc s) = .error (.raise e)) :
    exec (.modulate true intf diag gsrc) s = .next (takeError e (afterDraw gsrc s)) := by
  have hfinish : modulateFinish true intf diag (startOf true gsrc s).1 (startOf true gsrc s).2 =
      .error (.raise e) := by
    rw [modulateFinish]
    simp only [startOf, if_true, h, error_bind]
  rw [exec_modulate_of_start diag hstart, hfinish]
  rfl

/-- Settles O17: the checks of R182 in the order in which the rule makes them, two before the draw and two
after it. -/
theorem modulateReportsNoiseErrors : Obligations.ModulateReportsNoiseErrors := by
  intro intf diag gsrc s h hnoise
  have hstart := modulateStart_noise_of_ready h hnoise
  refine ⟨fun hsnr => ?snr, fun hsnr hwave => ?wave, fun hsnr hfinite hnonzero =>
    ⟨fun hdraw => ?draw, fun hdraw hdraw0 hscale => ?scale⟩⟩
  case snr =>
    exact exec_modulate_of_start_raises diag (by simp [hstart, hsnr])
  case wave =>
    exact exec_modulate_of_start_raises diag (by obtain hw | hw := hwave <;> simp [hstart, hsnr, hw])
  case draw =>
    exact exec_modulate_of_scaling_raises diag (by simp [hstart, hsnr, hfinite, hnonzero])
      (by obtain hd | hd := hdraw <;> simp [scaledNoise_of_draw, hd])
  case scale =>
    exact exec_modulate_of_scaling_raises diag (by simp [hstart, hsnr, hfinite, hnonzero])
      (by simp [scaledNoise_of_draw, hdraw, hdraw0, hscale])

/-! ### The state MODULATE completes with -/

/-- Sample `k` of the transmitted waveform: the clean sample, with noise and interference where they are
asked for (R181, R182, R183). -/
def sentAt (noise intf : Bool) (gsrc : GaussSource) (s : State) (k : Nat) : F64 :=
  let clean := signed (s.bitAt .chips (k / s.ns.toNat)) (s.sampleAt .splus (k % s.ns.toNat))
  let noisy := if noise then fadd clean (fmul ((noiseOf gsrc s).getD k 0) (scaleOf gsrc s)) else clean
  if intf then fadd noisy (s.sampleAt .intf k) else noisy

/-- The transmitted waveform. -/
def sentWave (noise intf : Bool) (gsrc : GaussSource) (s : State) : List F64 :=
  (List.range (modulateLength s)).map (sentAt noise intf gsrc s)

@[simp] theorem sentWave_length (noise intf : Bool) (gsrc : GaussSource) (s : State) :
    (sentWave noise intf gsrc s).length = modulateLength s := by
  simp [sentWave]

theorem sentWave_getElem? {noise intf : Bool} {gsrc : GaussSource} {s : State} {k : Nat}
    (hk : k < modulateLength s) :
    (sentWave noise intf gsrc s)[k]? = some (sentAt noise intf gsrc s k) := by
  simp [sentWave, hk]

/-- The rule makes the waveform by adding whole sequences; index by index it is `sentAt`. Interference is read
only where it is asked for. -/
theorem addWaves_eq_sentWave (noise : Bool) {intf : Bool} (gsrc : GaussSource) (s : State) {xs : List F64}
    (hxs : intf = true → xs = s.samples .intf (modulateLength s)) :
    (let noisy := if noise then addWaves (cleanWave s) (scaledDraw gsrc s) else cleanWave s
      if intf then addWaves noisy xs else noisy) = sentWave noise intf gsrc s := by
  simp only [scaledDraw_eq_map_range, cleanWave, addWaves_map_range]
  cases intf with
  | false => cases noise <;> simp [sentWave, sentAt]
  | true =>
    rw [hxs rfl, State.samples]
    cases noise <;> simp [addWaves_map_range, sentWave, sentAt]

/-- The state MODULATE leaves, its completion still to come. -/
def modulated (noise intf diag : Bool) (gsrc : GaussSource) (s : State) : State :=
  let u := ((startOf noise gsrc s).2.putSeq .tx (sentWave noise intf gsrc s)).putSeq .ref
    (tiledCarrier s (modulateLength s))
  if diag then putDiagnostics noise (cleanWave s) (scaledDraw gsrc s) (scaleOf gsrc s) u else u

/-- What MODULATE goes on in after the draw differs from what it began in by the environment alone. -/
theorem startOf_state (noise : Bool) (gsrc : GaussSource) (s : State) :
    (startOf noise gsrc s).2 = { s with env := (startOf noise gsrc s).2.env } := by
  cases noise
  · rfl
  · exact afterDraw_eq gsrc s

theorem readInterference_of_ready {intf : Bool} {s : State} (h : ModulateReady intf s) :
    ∃ xs, readSeq s .intf (if intf then modulateLength s else 0) = .ok xs ∧
      (intf = true → xs = s.samples .intf (modulateLength s)) := by
  obtain ⟨hwf, -, -, -, -, hintf⟩ := h
  cases intf with
  | false => exact ⟨[], by simp [readSeq, bufTake], by simp⟩
  | true =>
    obtain ⟨-, hwritten⟩ := hintf rfl
    exact ⟨_, readSeq_of_written s .intf _ hwf hwritten, fun _ => rfl⟩

/-- Without noise the diagnostic registers do not look at a draw (R185). -/
theorem putDiagnostics_clean (wave g g' : List F64) (x x' : F64) (s : State) :
    putDiagnostics false wave g x s = putDiagnostics false wave g' x' s := by
  simp [putDiagnostics]

theorem modulateFinish_of_ready {noise intf : Bool} (diag : Bool) {gsrc : GaussSource} {s : State}
    (h : ModulateReady intf s) (hpass : noise = true → NoisePasses gsrc s) :
    modulateFinish noise intf diag (startOf noise gsrc s).1 (startOf noise gsrc s).2 =
      .ok (modulated noise intf diag gsrc s) := by
  obtain ⟨xs, hread, hxs⟩ := readInterference_of_ready h
  have hread' : readSeq (startOf noise gsrc s).2 .intf
      (if intf then modulateLength (startOf noise gsrc s).2 else 0) = .ok xs := by
    rw [startOf_state]
    exact hread
  rw [modulateFinish_eq_ok, modulated, ← addWaves_eq_sentWave noise gsrc s hxs]
  cases noise with
  | false =>
    refine ⟨([], posZero), rfl, xs, hread', ?_⟩
    rw [putDiagnostics_clean _ (scaledDraw gsrc s) [] (scaleOf gsrc s) posZero]
    simp only [startOf, Bool.false_eq_true, if_false]
  | true =>
    obtain ⟨-, -, ⟨hdraw, hdraw0⟩, hscale⟩ := hpass rfl
    have hscaled : scaledNoise true (afterDraw gsrc s) (cleanWave s) (noiseOf gsrc s) =
        .ok (scaledDraw gsrc s, scaleOf gsrc s) := by
      rw [scaledNoise_of_draw]
      simp [hdraw, hdraw0, hscale]
    refine ⟨(scaledDraw gsrc s, scaleOf gsrc s), hscaled, xs, hread', ?_⟩
    simp only [startOf, if_true]

/-- MODULATE on a state that passes every check. -/
theorem exec_modulate_of_ready {noise intf : Bool} (diag : Bool) {gsrc : GaussSource} {s : State}
    (h : ModulateReady intf s) (hnoise : noise = true → NoiseReady gsrc s ∧ NoisePasses gsrc s) :
    exec (.modulate noise intf diag gsrc) s = .next (completeOk (modulated noise intf diag gsrc s)) := by
  have hstart : modulateStart noise intf gsrc s = .ok (startOf noise gsrc s) := by
    cases noise with
    | false => exact modulateStart_clean_of_ready h gsrc
    | true =>
      obtain ⟨hready, hsnr, ⟨hfinite, hnonzero⟩, -⟩ := hnoise rfl
      rw [modulateStart_noise_of_ready h hready]
      simp [hsnr, hfinite, hnonzero]
  rw [exec_modulate_of_start diag hstart, modulateFinish_of_ready diag h fun hn => (hnoise hn).2, complete_ok]

/-- Beside TX, REF, their lengths and the diagnostic registers, MODULATE leaves what the draw left. -/
theorem modulated_frame (noise intf diag : Bool) (gsrc : GaussSource) (s : State) :
    { completeOk (modulated noise intf diag gsrc s) with
        mem := s.mem, len := s.len, diagNormSig := s.diagNormSig,
        diagNormNoise := s.diagNormNoise, diagScale := s.diagScale } =
      completeOk (startOf noise gsrc s).2 := by
  rw [modulated, startOf_state]
  cases diag <;> simp [completeOk, State.putSeq, putDiagnostics]

@[simp] theorem elem_putDiagnostics (noise : Bool) (wave g : List F64) (x : F64) (s : State) (r : Region)
    (k : Nat) : (putDiagnostics noise wave g x s).elem r k = s.elem r k := rfl

@[simp] theorem lenOf_putDiagnostics (noise : Bool) (wave g : List F64) (x : F64) (s : State) (r : Region) :
    (putDiagnostics noise wave g x s).lenOf r = s.lenOf r := rfl

theorem lenOf_modulated (noise intf diag : Bool) (gsrc : GaussSource) (s : State) :
    (modulated noise intf diag gsrc s).lenOf .tx = modulateLength s ∧
      (modulated noise intf diag gsrc s).lenOf .ref = modulateLength s := by
  cases diag <;> simp [modulated]

theorem elem_modulated {noise intf diag : Bool} {gsrc : GaussSource} {s : State} {k : Nat}
    (hk : k < modulateLength s) :
    (modulated noise intf diag gsrc s).elem .tx k = some (sentAt noise intf gsrc s k) ∧
      (modulated noise intf diag gsrc s).elem .ref k = some (s.sampleAt .splus (k % s.ns.toNat)) := by
  cases diag <;> simp [modulated, hk, sentWave, tiledCarrier]

theorem diagnostics_modulated (noise intf diag : Bool) (gsrc : GaussSource) (s : State) :
    ((modulated noise intf diag gsrc s).diagNormSig, (modulated noise intf diag gsrc s).diagNormNoise,
        (modulated noise intf diag gsrc s).diagScale) =
      if diag then
        (norm (cleanWave s), if noise then norm (scaledDraw gsrc s) else posZero,
          if noise then scaleOf gsrc s else posZero)
      else (s.diagNormSig, s.diagNormNoise, s.diagScale) := by
  rw [modulated, startOf_state]
  cases diag <;> simp [putDiagnostics]

/-- Settles O31: the end state is the modulated one, which holds the waveforms by index. -/
theorem modulateCleanWaveform : Obligations.ModulateCleanWaveform := by
  intro intf diag gsrc s h
  have hexec := exec_modulate_of_ready (noise := false) (gsrc := gsrc) diag h (by simp)
  obtain ⟨htx, href⟩ := lenOf_modulated false intf diag gsrc s
  exact ⟨_, hexec, modulated_frame false intf diag gsrc s, commandsWriteOnlyTheirRegions _ s _ hexec,
    htx, href, fun k hk => elem_modulated hk, diagnostics_modulated false intf diag gsrc s⟩

/-- Settles O32: as O31, with the scaled draw in every sample and the draw made. -/
theorem modulateNoisyWaveform : Obligations.ModulateNoisyWaveform := by
  intro intf diag gsrc s h hnoise hpass
  have hexec := exec_modulate_of_ready (noise := true) diag h fun _ => ⟨hnoise, hpass⟩
  obtain ⟨htx, href⟩ := lenOf_modulated true intf diag gsrc s
  exact ⟨_, hexec, modulated_frame true intf diag gsrc s, commandsWriteOnlyTheirRegions _ s _ hexec,
    htx, href, fun k hk => elem_modulated hk, diagnostics_modulated true intf diag gsrc s⟩

/-! ### A completion without error shows that every check passed -/

theorem ruleSucceeds_of_exec {i : Instr} {s t : State} (h : exec i s = .next t) (ht : t.err = false) :
    ∃ u, RuleSucceeds i s u ∧ t = completeOk u := by
  obtain hok | ⟨e, env, -, rfl⟩ := exec_cases h
  · exact hok
  · cases ht

theorem modulateStart_reads {noise intf : Bool} {gsrc : GaussSource} {s : State} {p : Modulated × State}
    (h : modulateStart noise intf gsrc s = .ok p) :
    modulateChecks noise intf gsrc s = .ok () ∧ (∃ chips, readAll s .chips = .ok chips) ∧
      (∃ sp, readSplus s (s.lenOf .chips) = .ok sp) ∧
      (noise = true → ∃ g, noiseDraw gsrc (modulateLength s) s = .ok g) := by
  cases noise with
  | false =>
    obtain ⟨hchecks, chips, hchips, sp, hsp, -⟩ := (modulateStart_clean_eq_ok intf gsrc s p).mp h
    exact ⟨hchecks, ⟨chips, hchips⟩, ⟨sp, hsp⟩, by simp⟩
  | true =>
    obtain ⟨hchecks, chips, hchips, sp, hsp, -, -, -, g, hg, -⟩ :=
      (modulateStart_noise_eq_ok intf gsrc s p).mp h
    exact ⟨hchecks, ⟨chips, hchips⟩, ⟨sp, hsp⟩, fun _ => ⟨g, hg⟩⟩

theorem written_gnoise_of_noiseDraw {m : Nat} {s : State} {g : List F64 × State}
    (h : noiseDraw .gnoise m s = .ok g) : Written s .gnoise m := by
  cases hread : readSeq s .gnoise m with
  | error e => simp [noiseDraw, hread, Except.map] at h
  | ok ws => exact written_of_readSeq hread

theorem written_intf_of_modulate {noise diag : Bool} {gsrc : GaussSource} {s u : State}
    (h : RuleSucceeds (.modulate noise true diag gsrc) s u) : Written s .intf (modulateLength s) := by
  obtain ⟨⟨m, s1⟩, hstart, hfinish⟩ := h
  obtain ⟨-, -, xs, hread, -⟩ := (modulateFinish_eq_ok noise true diag m s1 u).mp hfinish
  have hs1 : s1 = { s with env := s1.env } := modulateStart_state hstart
  have hwritten : Written s1 .intf (modulateLength s1) := written_of_readSeq hread
  rwa [hs1] at hwritten

theorem ready_of_modulate {noise intf diag : Bool} {gsrc : GaussSource} {s u : State}
    (hwf : s.mem.wf = true) (h : RuleSucceeds (.modulate noise intf diag gsrc) s u) :
    ModulateReady intf s ∧ (noise = true → NoiseReady gsrc s) := by
  obtain ⟨p, hstart, hfinish⟩ := h
  obtain ⟨hchecks, ⟨chips, hchips⟩, ⟨sp, hsp⟩, hdraw⟩ := modulateStart_reads hstart
  obtain ⟨hcfg, hroom, hintf, hgnoise⟩ := (modulateChecks_eq_ok noise intf gsrc s ()).mp hchecks
  refine ⟨⟨hwf, hcfg, hroom, written_of_readSeq hchips, fun hne => ?splus,
      fun hi => ⟨hintf hi, ?intf⟩⟩, fun hn hsrc => ⟨hgnoise hn hsrc, ?gnoise⟩⟩
  case splus =>
    rw [readSplus, if_neg hne] at hsp
    exact written_of_readSeq hsp
  case intf =>
    subst hi
    exact written_intf_of_modulate ⟨p, hstart, hfinish⟩
  case gnoise =>
    subst hsrc
    obtain ⟨g, hg⟩ := hdraw hn
    exact written_gnoise_of_noiseDraw hg

/-- Where a check of R182 fails, MODULATE completes with its error (O17). -/
theorem noisePasses_of_exec {intf diag : Bool} {gsrc : GaussSource} {s t : State}
    (hready : ModulateReady intf s) (hnoise : NoiseReady gsrc s)
    (h : exec (.modulate true intf diag gsrc) s = .next t) (ht : t.err = false) :
    NoisePasses gsrc s := by
  have hno {e : CmdError} {v : State} : exec (.modulate true intf diag gsrc) s ≠ .next (takeError e v) :=
    fun herr => by
      cases herr.symm.trans h
      cases ht
  obtain ⟨h9, h10, hrest⟩ := modulateReportsNoiseErrors intf diag gsrc s hready hnoise
  have hsnr : isFinite s.snrDb = true := by
    by_contra hc
    exact hno (h9 (by simpa using hc))
  have hwave : isFinite (norm (cleanWave s)) = true ∧ isZero (norm (cleanWave s)) = false := by
    by_contra hc
    exact hno (h10 hsnr (by simpa [or_iff_not_imp_left] using hc))
  obtain ⟨h11, h12⟩ := hrest hsnr hwave.1 hwave.2
  have hdraw : isFinite (norm (noiseOf gsrc s)) = true ∧ isZero (norm (noiseOf gsrc s)) = false := by
    by_contra hc
    exact hno (h11 (by simpa [or_iff_not_imp_left] using hc))
  have hscale : isFinite (scaleOf gsrc s) = true := by
    by_contra hc
    exact hno (h12 hdraw.1 hdraw.2 (by simpa using hc))
  exact ⟨hsnr, hwave, hdraw, hscale⟩

theorem eq_modulated_of_exec {noise intf diag : Bool} {gsrc : GaussSource} {s t : State}
    (hwf : s.mem.wf = true) (h : exec (.modulate noise intf diag gsrc) s = .next t) (ht : t.err = false) :
    t = completeOk (modulated noise intf diag gsrc s) := by
  obtain ⟨u, hu, -⟩ := ruleSucceeds_of_exec h ht
  obtain ⟨hready, hnoise⟩ := ready_of_modulate hwf hu
  have hpass (hn : noise = true) : NoiseReady gsrc s ∧ NoisePasses gsrc s := by
    subst hn
    exact ⟨hnoise rfl, noisePasses_of_exec hready (hnoise rfl) h ht⟩
  cases (exec_modulate_of_ready diag hready hpass).symm.trans h
  rfl

/-! ### What MODULATE depends on (R186) -/

/-- Two states agree on the inputs that MODULATE's rule names, the draw (or GNOISE) taken as the noise that
it gives. -/
structure SameInputs (noise intf : Bool) (gsrc : GaussSource) (s s' : State) : Prop where
  length : s.lenOf .chips = s'.lenOf .chips
  ns : s.ns = s'.ns
  chips : ∀ k, k < s.lenOf .chips → s.elem .chips k = s'.elem .chips k
  splus : ∀ k, k < s.ns.toNat → s.elem .splus k = s'.elem .splus k
  intf : intf = true → ∀ k, k < modulateLength s → s.elem .intf k = s'.elem .intf k
  power : noise = true →
    fpow10 s.params (fdiv s.snrDb fTwenty) = fpow10 s'.params (fdiv s'.snrDb fTwenty)
  draw : noise = true → noiseOf gsrc s = noiseOf gsrc s'

section

variable {noise intf : Bool} {gsrc : GaussSource} {s s' : State} (h : SameInputs noise intf gsrc s s')
include h

theorem SameInputs.modulateLength_eq : modulateLength s = modulateLength s' := by
  rw [modulateLength, modulateLength, h.length, h.ns]

theorem SameInputs.carrier_eq {k : Nat} (hk : k < modulateLength s) :
    s.sampleAt .splus (k % s.ns.toNat) = s'.sampleAt .splus (k % s'.ns.toNat) := by
  have hpos : 0 < s.ns.toNat := Nat.pos_of_lt_mul_left hk
  rw [State.sampleAt, State.sampleAt, h.splus _ (Nat.mod_lt k hpos), h.ns]

theorem SameInputs.chip_eq {k : Nat} (hk : k < modulateLength s) :
    s.bitAt .chips (k / s.ns.toNat) = s'.bitAt .chips (k / s'.ns.toNat) := by
  have hpos : 0 < s.ns.toNat := Nat.pos_of_lt_mul_left hk
  rw [State.bitAt, State.bitAt, h.chips _ ((Nat.div_lt_iff_lt_mul hpos).mpr hk), h.ns]

theorem SameInputs.cleanWave_eq : cleanWave s = cleanWave s' := by
  rw [cleanWave, cleanWave, ← h.modulateLength_eq]
  refine List.map_congr_left fun k hk => ?_
  have hk : k < modulateLength s := List.mem_range.mp hk
  rw [h.chip_eq hk, h.carrier_eq hk]

theorem SameInputs.scaleOf_eq (hnoise : noise = true) : scaleOf gsrc s = scaleOf gsrc s' := by
  rw [scaleOf, scaleOf, h.cleanWave_eq, h.power hnoise, h.draw hnoise]

theorem SameInputs.sentAt_eq {k : Nat} (hk : k < modulateLength s) :
    sentAt noise intf gsrc s k = sentAt noise intf gsrc s' k := by
  have hnoise (hn : noise = true) : fmul ((noiseOf gsrc s).getD k 0) (scaleOf gsrc s) =
      fmul ((noiseOf gsrc s').getD k 0) (scaleOf gsrc s') := by rw [h.draw hn, h.scaleOf_eq hn]
  have hintf (hi : intf = true) : s.sampleAt .intf k = s'.sampleAt .intf k := by
    rw [State.sampleAt, State.sampleAt, h.intf hi k hk]
  simp only [sentAt, h.chip_eq hk, h.carrier_eq hk]
  cases noise <;> cases intf <;> simp only [hnoise, hintf, Bool.false_eq_true, if_true, if_false]

theorem SameInputs.diagnostics_eq :
    (norm (cleanWave s), if noise then norm (scaledDraw gsrc s) else posZero,
        if noise then scaleOf gsrc s else posZero) =
      (norm (cleanWave s'), if noise then norm (scaledDraw gsrc s') else posZero,
        if noise then scaleOf gsrc s' else posZero) := by
  rw [h.cleanWave_eq]
  cases noise with
  | false => simp
  | true => simp [scaledDraw, h.draw rfl, h.scaleOf_eq rfl]

end

theorem noiseOf_gnoise_eq {s s' : State} (hlen : modulateLength s = modulateLength s')
    (h : ∀ k, k < modulateLength s → s.elem .gnoise k = s'.elem .gnoise k) :
    noiseOf .gnoise s = noiseOf .gnoise s' := by
  simp only [noiseOf, State.samples, ← hlen]
  exact List.map_congr_left fun k hk => by
    rw [State.sampleAt, State.sampleAt, h k (List.mem_range.mp hk)]

/-- Settles O33: both end states are modulated ones, and what those hold is made of the inputs alone. -/
theorem modulateDependsOnItsInputsAlone : Obligations.ModulateDependsOnItsInputsAlone := by
  intro noise intf diag gsrc s s' t t' hwf hwf' hexec ht hexec' ht' hlength hns hchips hsplus hintf hnoise
  have hdraw (hn : noise = true) : noiseOf gsrc s = noiseOf gsrc s' := by
    obtain ⟨-, -, hsource⟩ := hnoise hn
    cases gsrc with
    | internal => exact hsource
    | gnoise => exact noiseOf_gnoise_eq (by rw [modulateLength, modulateLength, hlength, hns]) hsource
  have hpower (hn : noise = true) :
      fpow10 s.params (fdiv s.snrDb fTwenty) = fpow10 s'.params (fdiv s'.snrDb fTwenty) := by
    obtain ⟨-, hpow, -⟩ := hnoise hn
    exact hpow
  have hsame : SameInputs noise intf gsrc s s' := ⟨hlength, hns, hchips, hsplus, hintf, hpower, hdraw⟩
  obtain rfl := eq_modulated_of_exec hwf hexec ht
  obtain rfl := eq_modulated_of_exec hwf' hexec' ht'
  obtain ⟨htx, href⟩ := lenOf_modulated noise intf diag gsrc s
  obtain ⟨htx', href'⟩ := lenOf_modulated noise intf diag gsrc s'
  have hlen := hsame.modulateLength_eq
  simp only [lenOf_completeOk, elem_completeOk, htx, href, htx', href']
  refine ⟨hlen, hlen, fun k hk => ?tx, fun k hk => ?ref, fun hd => ?diag⟩
  case tx =>
    rw [(elem_modulated hk).1, (elem_modulated (hlen ▸ hk)).1, hsame.sentAt_eq hk]
  case ref =>
    rw [(elem_modulated hk).2, (elem_modulated (hlen ▸ hk)).2, hsame.carrier_eq hk]
  case diag =>
    subst hd
    have heq := (diagnostics_modulated noise intf true gsrc s).trans
      (hsame.diagnostics_eq.trans (diagnostics_modulated noise intf true gsrc s').symm)
    simpa using heq

end Sys2Proof.Machine
end

section
/-! The signs of binary64 sums and products (00_scope.md R12, R13): the hard decision, a sum of terms that no
sign opposes, and the products of a carrier sample with itself and with its double. -/

namespace Sys2Proof.Machine

/-! ### The place of a value in the order -/

theorem orderKey_withSign (b : Bool) {q : Nat} (hq : q < 2 ^ 63) :
    orderKey (withSign b q) = if b then -(q : Int) else q := by
  rw [orderKey, signBit_withSign b q hq, magBits_withSign b q hq]

theorem isNaN_withSign (b : Bool) {q : Nat} (hq : q ≤ infBits) : isNaN (withSign b q) = false := by
  rw [isNaN, magBits_withSign b q (hq.trans_lt infBits_lt), decide_eq_false (by omega)]

@[simp] theorem orderKey_fneg (a : F64) : orderKey (fneg a) = -orderKey a := by
  cases h : signBit a <;> simp [orderKey, h]

theorem orderKey_eq_zero_iff (a : F64) : orderKey a = 0 ↔ magBits a = 0 := by
  cases h : signBit a <;> simp [orderKey, h]

theorem unitsOf_eq_zero_iff (a : F64) : unitsOf a = 0 ↔ magBits a = 0 := by
  simp only [unitsOf]
  split
  · omega
  · have hpos : 0 < (2 ^ 52 + magBits a % 2 ^ 52) * 2 ^ (magBits a / 2 ^ 52 - 1) := by positivity
    omega

/-- A value and its number of units lie on the same side of zero. -/
theorem orderKey_sign (a : F64) :
    (0 < orderKey a ↔ 0 < signedUnits a) ∧ (orderKey a < 0 ↔ signedUnits a < 0) := by
  have hzero := unitsOf_eq_zero_iff a
  cases h : signBit a <;> simp only [orderKey, signedUnits, h] <;> simp <;> omega

theorem decision_eq (a : F64) : decision a = (!isNaN a && decide (0 < orderKey a)) := by
  have hzero : isNaN posZero = false ∧ orderKey posZero = 0 := by decide
  simp [decision, fgt, hzero]

/-- Settles O37: the decision asks for a value above zero that is no NaN. -/
theorem decisionEdges : Obligations.DecisionEdges := by
  refine ⟨by decide, by decide, by decide, by decide, fun a ha => ?nan, fun a ha => ?finite⟩
  case nan => simp [decision_eq, ha]
  case finite => simp [decision_eq, isNaN_of_isFinite ha, (orderKey_sign a).1]

/-! ### Sums of terms of one sign -/

/-- `a` is no NaN, and a zero of either sign or a value of sign `c`. -/
def Leans (c : Bool) (a : F64) : Prop :=
  isNaN a = false ∧ 0 ≤ bipInt c * orderKey a

theorem leans_of_orderKey_eq_zero (c : Bool) {a : F64} (hnan : isNaN a = false) (h : orderKey a = 0) :
    Leans c a :=
  ⟨hnan, by simp [h]⟩

theorem leans_posZero (c : Bool) : Leans c posZero :=
  leans_of_orderKey_eq_zero c (by decide) (by decide)

theorem leans_withSign (c : Bool) {q : Nat} (hq : q ≤ infBits) : Leans c (withSign (!c) q) := by
  refine ⟨isNaN_withSign _ hq, ?_⟩
  rw [orderKey_withSign _ (hq.trans_lt infBits_lt)]
  cases c <;> simp [bipInt]

theorem signBit_of_leans {c : Bool} {a : F64} (h : Leans c a) (hne : orderKey a ≠ 0) : signBit a = !c := by
  obtain ⟨-, hle⟩ := h
  cases c <;> cases hs : signBit a <;> simp [orderKey, hs, bipInt] at hle hne ⊢ <;> omega

theorem orderKey_ne_zero_of_isInf {a : F64} (h : isInf a = true) : orderKey a ≠ 0 := by
  have hmag : magBits a = infBits := by simpa [isInf] using h
  rw [Ne, orderKey_eq_zero_iff, hmag]
  decide

theorem isFinite_of_not_isInf {a : F64} (hnan : isNaN a = false) (hinf : isInf a = false) :
    isFinite a = true := by
  simp only [isFinite, isNaN, isInf, decide_eq_true_eq, decide_eq_false_iff_not, beq_eq_false_iff_ne] at *
  omega

/-- A rounding is 0 only of what is at most half a unit. -/
theorem roundMag_eq_zero_iff (num : Nat) {den : Nat} (hden : 0 < den) :
    roundMag num den = 0 ↔ 2 * num ≤ den := by
  have hbounds := (roundSignificand_bounds num den hden).2
  have hmag : roundMag num den = 0 ↔ roundExponent num den = 0 ∧ roundSignificand num den = 0 := by
    rw [roundMag_eq, infBits]
    omega
  have hcases := roundHalfEvenQuot_cases num den
  rw [hmag]
  obtain hlt | hge := Nat.lt_or_ge num den
  · have hdiv : num / den = 0 := Nat.div_eq_of_lt hlt
    have hk : roundExponent num den = 0 := by simp [roundExponent, hdiv]
    rw [hdiv, Nat.mod_eq_of_lt hlt] at hcases
    rw [roundSignificand, hk, Nat.pow_zero, Nat.mul_one]
    omega
  · have hdiv : 0 < num / den := Nat.div_pos hge hden
    refine iff_of_false (fun ⟨hk, hq⟩ => ?_) (by omega)
    rw [roundSignificand, hk, Nat.pow_zero, Nat.mul_one] at hq
    omega

/-- The sum of two finite values lies on the side of zero on which the exact sum lies. -/
theorem fadd_sign {a b : F64} (ha : isFinite a = true) (hb : isFinite b = true) :
    isNaN (fadd a b) = false ∧
      (0 < orderKey (fadd a b) ↔ 0 < signedUnits a + signedUnits b) ∧
      (orderKey (fadd a b) < 0 ↔ signedUnits a + signedUnits b < 0) := by
  rw [fadd_of_isFinite ha hb]
  generalize signedUnits a + signedUnits b = z
  split
  · next hz =>
    subst hz
    rw [isNaN_withSign _ (Nat.zero_le _), orderKey_withSign _ (by decide)]
    simp
  · next hz =>
    have hle : roundMag z.natAbs 1 ≤ infBits := Nat.min_le_right _ _
    have hne := (roundMag_eq_zero_iff z.natAbs one_pos).not
    rw [orderKey_withSign _ (hle.trans_lt infBits_lt)]
    refine ⟨isNaN_withSign _ hle, ?_⟩
    obtain hneg | hpos := Int.lt_or_gt_of_ne hz
    · rw [decide_eq_true hneg, if_pos rfl]
      omega
    · rw [decide_eq_false (by omega), if_neg Bool.false_ne_true]
      omega

theorem leans_iff (c : Bool) (a : F64) :
    Leans c a ↔ isNaN a = false ∧ if c then 0 ≤ orderKey a else orderKey a ≤ 0 := by
  cases c <;> simp [Leans, bipInt]

/-- Two values that lean to one side have a sum that does, and neither cancels the other. -/
theorem fadd_of_leans {c : Bool} {a b : F64} (ha : Leans c a) (hb : Leans c b) :
    Leans c (fadd a b) ∧ (orderKey a ≠ 0 ∨ orderKey b ≠ 0 → orderKey (fadd a b) ≠ 0) := by
  have hnanA := ha.1
  have hnanB := hb.1
  cases hinfA : isInf a with
  | true =>
    have hneA := orderKey_ne_zero_of_isInf hinfA
    have hsame : isInf b = true → signBit a = signBit b := fun hinfB => by
      rw [signBit_of_leans ha hneA, signBit_of_leans hb (orderKey_ne_zero_of_isInf hinfB)]
    have hsum : fadd a b = a := by
      simp only [fadd, addAs, hnanA, hnanB, hinfA, Bool.or_false, Bool.false_eq_true, if_false, if_true]
      exact if_neg (by simpa using hsame)
    rw [hsum]
    exact ⟨ha, fun _ => hneA⟩
  | false =>
    cases hinfB : isInf b with
    | true =>
      have hsum : fadd a b = b := by simp [fadd, addAs, hnanA, hnanB, hinfA, hinfB]
      rw [hsum]
      exact ⟨hb, fun _ => orderKey_ne_zero_of_isInf hinfB⟩
    | false =>
      obtain ⟨hnan, hpos, hneg⟩ :=
        fadd_sign (isFinite_of_not_isInf hnanA hinfA) (isFinite_of_not_isInf hnanB hinfB)
      obtain ⟨hposA, hnegA⟩ := orderKey_sign a
      obtain ⟨hposB, hnegB⟩ := orderKey_sign b
      rw [leans_iff] at ha hb ⊢
      obtain ⟨-, ha⟩ := ha
      obtain ⟨-, hb⟩ := hb
      cases c with
      | true =>
        simp only [if_true] at ha hb ⊢
        exact ⟨⟨hnan, by omega⟩, by omega⟩
      | false =>
        simp only [Bool.false_eq_true, if_false] at ha hb ⊢
        exact ⟨⟨hnan, by omega⟩, by omega⟩

theorem foldl_fadd_of_leans {c : Bool} {xs : List F64} {acc : F64} (hacc : Leans c acc)
    (hxs : ∀ x ∈ xs, Leans c x) :
    Leans c (xs.foldl fadd acc) ∧
      ((orderKey acc ≠ 0 ∨ ∃ x ∈ xs, orderKey x ≠ 0) → orderKey (xs.foldl fadd acc) ≠ 0) := by
  induction xs generalizing acc with
  | nil => exact ⟨hacc, by simp⟩
  | cons x xs ih =>
    obtain ⟨hx, hrest⟩ := List.forall_mem_cons.mp hxs
    obtain ⟨hsum, hsumNe⟩ := fadd_of_leans hacc hx
    obtain ⟨hfold, hfoldNe⟩ := ih hsum hrest
    refine ⟨hfold, fun hne => hfoldNe ?_⟩
    rw [List.exists_mem_cons_iff, ← or_assoc] at hne
    exact hne.imp_left hsumNe

/-- A sum of terms of one sign has that sign, and is zero only where every term is. -/
theorem sumSeq_of_leans {c : Bool} {xs : List F64} (h : ∀ x ∈ xs, Leans c x) :
    Leans c (sumSeq xs) ∧ ((∃ x ∈ xs, orderKey x ≠ 0) → orderKey (sumSeq xs) ≠ 0) := by
  obtain ⟨hsum, hne⟩ := foldl_fadd_of_leans (leans_posZero c) h
  exact ⟨hsum, fun hx => hne (.inr hx)⟩

/-- A sum that leans to -1, or that leans to +1 and is not zero, is decided so. -/
theorem decision_of_leans {c : Bool} {a : F64} (h : Leans c a) (hne : c = true → orderKey a ≠ 0) :
    decision a = c := by
  obtain ⟨hnan, hle⟩ := (leans_iff c a).mp h
  rw [decision_eq, hnan, Bool.not_false, Bool.true_and]
  cases c with
  | true =>
    have := hne rfl
    exact decide_eq_true (by simp only [if_true] at hle; omega)
  | false => exact decide_eq_false (by simpa using hle)

/-! ### A value under a bipolar sign -/

theorem isFinite_signed (c : Bool) (a : F64) : isFinite (signed c a) = isFinite a := by
  cases c <;> simp [signed]

theorem orderKey_signed_eq_zero_iff (c : Bool) (a : F64) : orderKey (signed c a) = 0 ↔ orderKey a = 0 := by
  cases c <;> simp [signed]

theorem leans_signed {c : Bool} {a : F64} (h : Leans true a) : Leans c (signed c a) := by
  obtain ⟨hnan, hle⟩ := h
  cases c <;> simpa [Leans, signed, bipInt, hnan] using hle

@[simp] theorem true_bipMul (b : Bool) : bipMul true b = b := by
  cases b <;> rfl

@[simp] theorem false_bipMul (b : Bool) : bipMul false b = !b := by
  cases b <;> rfl

theorem signed_signed (a b : Bool) (x : F64) : signed a (signed b x) = signed (bipMul a b) x := by
  cases a <;> cases b <;> simp [signed]

/-- A bipolar value that multiplies twice is no change (R165, R204). -/
theorem bipMul_bipMul_cancel (e a b : Bool) : bipMul (bipMul e a) (bipMul b a) = bipMul e b := by
  revert e a b
  decide

theorem signed_signed_bipMul (a b : Bool) (x : F64) : signed a (signed (bipMul b a) x) = signed b x := by
  have hcancel := bipMul_bipMul_cancel true a b
  rw [true_bipMul, true_bipMul] at hcancel
  rw [signed_signed, hcancel]

/-- The products agree where the codes' product is that of the messages (R205). -/
theorem bipMul_eq_bipMul_iff (α β a b : Bool) : bipMul α a = bipMul β b ↔ bipMul a b = bipMul α β := by
  revert α β a b
  decide

theorem signed_withSign (c b : Bool) {q : Nat} (hq : q < 2 ^ 63) :
    signed c (withSign b q) = withSign (b == c) q := by
  cases c <;> cases b <;> simp [signed, fneg_withSign _ _ hq]

theorem fmul_signed {a b : F64} (c : Bool) (ha : isFinite a = true) (hb : isFinite b = true) :
    fmul a (signed c b) = signed c (fmul a b) := by
  cases c
  · exact fmul_fneg_right ha hb
  · rfl

/-- A product with a zero of either sign is a zero. -/
theorem leans_fmul_signed_posZero (c e : Bool) {x : F64} (hx : isFinite x = true) :
    Leans c (fmul x (signed e posZero)) := by
  have hunits : unitsOf (signed e posZero) = 0 := by cases e <;> decide
  rw [fmul_of_isFinite hx (by rw [isFinite_signed]; decide), hunits, Nat.mul_zero,
    (roundMag_eq_zero_iff 0 unitsPerOne_pos).mpr (by omega)]
  exact leans_of_orderKey_eq_zero c (isNaN_withSign _ (Nat.zero_le _))
    (by rw [orderKey_withSign _ (by decide)]; simp)

/-! ### The square of a carrier sample -/

theorem fmul_self {x : F64} (hx : isFinite x = true) :
    fmul x x = withSign false (roundMag (unitsOf x * unitsOf x) unitsPerOne) := by
  rw [fmul_of_isFinite hx hx, bne_self_eq_false]

theorem leans_fmul_self {x : F64} (hx : isFinite x = true) : Leans true (fmul x x) := by
  rw [fmul_self hx]
  exact leans_withSign true (Nat.min_le_right _ _)

theorem orderKey_fmul_self_ne_zero_iff {x : F64} (hx : isFinite x = true) :
    orderKey (fmul x x) ≠ 0 ↔ unitsPerOne < 2 * (unitsOf x * unitsOf x) := by
  have hzero := (roundMag_eq_zero_iff (unitsOf x * unitsOf x) unitsPerOne_pos).not
  rw [fmul_self hx, orderKey_withSign _ (roundMag_lt _ _), if_neg Bool.false_ne_true, Ne, Int.natCast_eq_zero,
    hzero, not_le]

/-- A sum of squares whose root is not zero has a square that is not zero (R111). -/
theorem exists_square_ne_zero {xs : List F64} (hfinite : ∀ x ∈ xs, isFinite x = true)
    (hnorm : isZero (norm xs) = false) : ∃ x ∈ xs, orderKey (fmul x x) ≠ 0 := by
  by_contra hall
  push Not at hall
  have hleans (c : Bool) : Leans c (sumSeq (xs.map fun x => fmul x x)) :=
    (sumSeq_of_leans fun y hy => by
      obtain ⟨x, hx, rfl⟩ := List.mem_map.mp hy
      exact leans_of_orderKey_eq_zero c (leans_fmul_self (hfinite x hx)).1 (hall x hx)).1
  obtain ⟨hnan, hnonneg⟩ := (leans_iff true _).mp (hleans true)
  obtain ⟨-, hnonpos⟩ := (leans_iff false _).mp (hleans false)
  simp only [if_true, Bool.false_eq_true, if_false] at hnonneg hnonpos
  have hzero : isZero (sumSeq (xs.map fun x => fmul x x)) = true := by
    rw [isZero, (orderKey_eq_zero_iff _).mp (le_antisymm hnonpos hnonneg)]
    rfl
  simp [norm, fsqrt, hnan, hzero] at hnorm

/-! ### A carrier sample and its double (R205) -/

/-- The double of a finite value is rounded once, and overflows to the infinity of its sign. -/
theorem fadd_self {x : F64} (hx : isFinite x = true) :
    fadd x x = withSign (signBit x) (roundMag (2 * unitsOf x) 1) := by
  have habs : (signedUnits x + signedUnits x).natAbs = 2 * unitsOf x := by
    cases hs : signBit x <;> simp [signedUnits, hs] <;> omega
  have hneg : signedUnits x + signedUnits x ≠ 0 →
      decide (signedUnits x + signedUnits x < 0) = signBit x := by
    cases hs : signBit x with
    | true =>
      simp [signedUnits, hs]
      omega
    | false => simp [signedUnits, hs]
  rw [fadd_of_isFinite hx hx, Bool.and_self]
  split
  · next hz =>
    rw [← habs, hz]
    rfl
  · next hz => rw [hneg hz, habs]

theorem fadd_signed_self (c : Bool) {x : F64} (hx : isFinite x = true) :
    fadd (signed c x) (signed c x) = signed c (fadd x x) := by
  cases c
  · rw [signed, if_neg Bool.false_ne_true, fadd_self (by simpa using hx), fadd_self hx,
      signed_withSign _ _ (roundMag_lt _ _)]
    simp
  · rfl

theorem fadd_signed_opposite {b c : Bool} (hbc : b ≠ c) {x : F64} (hx : isFinite x = true) :
    fadd (signed b x) (signed c x) = posZero := by
  have hopposite : signed c x = fneg (signed b x) := by
    cases b <;> cases c <;> simp [signed] at hbc ⊢
  rw [hopposite, fadd_fneg_self (by rwa [isFinite_signed])]

/-- Where it does not overflow, the double is at least the value: the value itself is a candidate for the
rounding, and what lies below it is farther off. -/
theorem unitsOf_le_double {x : F64} (b : Bool) (hfin : roundMag (2 * unitsOf x) 1 < infBits)
    (hx : isFinite x = true) : unitsOf x ≤ unitsOf (withSign b (roundMag (2 * unitsOf x) 1)) := by
  have hmag : magBits x < infBits := by simpa [isFinite] using hx
  have hunits (b : Bool) {p : Nat} (hp : p < 2 ^ 63) : unitsOf (withSign b p) = unitsOf (withSign false p) := by
    simp only [unitsOf, magBits_withSign _ p hp]
  have hself : unitsOf (withSign false (magBits x)) = unitsOf x := by
    rw [← hunits (signBit x) (magBits_lt x), withSign_signBit_magBits]
  obtain ⟨hnear, -⟩ := roundingIsNearestEven (2 * unitsOf x) 1 (magBits x) one_pos hfin hmag
  simp only [hself] at hnear
  rw [hunits b (roundMag_lt _ _)]
  omega

theorem fmul_inf {x : F64} (b : Bool) (hx : isFinite x = true) (hne : isZero x = false) :
    fmul x (withSign b infBits) = withSign (signBit x != b) infBits := by
  have hmag : magBits (withSign b infBits) = infBits := magBits_withSign b _ infBits_lt
  have hinf : isInf (withSign b infBits) = true := by rw [isInf, hmag, beq_self_eq_true]
  have hzero : isZero (withSign b infBits) = false := by
    rw [isZero, hmag]
    decide
  simp [fmul, isNaN_of_isFinite hx, isNaN_withSign b le_rfl, hinf, hzero, hne,
    signBit_withSign b _ infBits_lt]

/-- A value times its double, under a sign, is a magnitude under that sign; it is not zero where the square of
the value is not. -/
theorem fmul_signed_double (c : Bool) {x : F64} (hx : isFinite x = true) :
    Leans c (fmul x (signed c (fadd x x))) ∧
      (orderKey (fmul x x) ≠ 0 → orderKey (fmul x (signed c (fadd x x))) ≠ 0) := by
  have hsign : (signBit x != (signBit x == c)) = !c := by cases signBit x <;> cases c <;> rfl
  have key : ∃ q ≤ infBits, fmul x (signed c (fadd x x)) = withSign (!c) q ∧
      (unitsPerOne < 2 * (unitsOf x * unitsOf x) → q ≠ 0) := by
    rw [fadd_self hx, signed_withSign _ _ (roundMag_lt _ _)]
    have hle : roundMag (2 * unitsOf x) 1 ≤ infBits := Nat.min_le_right _ _
    obtain hfin | hinf := hle.lt_or_eq
    · have hdouble := Nat.mul_le_mul_left (unitsOf x) (unitsOf_le_double (signBit x == c) hfin hx)
      refine ⟨_, Nat.min_le_right _ _,
        by rw [fmul_of_isFinite hx (isFinite_withSign _ hfin), signBit_withSign _ _ (roundMag_lt _ _), hsign]; rfl,
        fun hsq => (roundMag_eq_zero_iff _ unitsPerOne_pos).not.mpr ?_⟩
      omega
    · have hne : isZero x = false := by
        rw [isZero, beq_eq_false_iff_ne]
        intro hzero
        rw [(unitsOf_eq_zero_iff x).mpr hzero] at hinf
        exact absurd hinf (by decide)
      refine ⟨infBits, le_rfl, ?_, fun _ => by decide⟩
      rw [hinf, fmul_inf _ hx hne, hsign]
  obtain ⟨q, hq, heq, hne⟩ := key
  rw [heq, orderKey_fmul_self_ne_zero_iff hx, orderKey_withSign _ (hq.trans_lt infBits_lt)]
  refine ⟨leans_withSign c hq, fun hsq => ?_⟩
  have := hne hsq
  cases c <;> simpa using this

end Sys2Proof.Machine
end

section
/-! The demodulator (44_demodulator.md R200 to R203): the despread signal and the correlation sums by index, and
the states that DESPREAD, CORRELATE, DEMOD and DEMOD_WRONG complete with. -/

namespace Sys2Proof.Machine

/-! ### DESPREAD -/

/-- The signal that DESPREAD writes. -/
def despreadSamples (sel : CodeSel) (x : WaveSel) (s : State) : List F64 :=
  (List.range (s.lenOf (waveRegion x))).map (despreadAt sel x s)

@[simp] theorem despreadSamples_length (sel : CodeSel) (x : WaveSel) (s : State) :
    (despreadSamples sel x s).length = s.lenOf (waveRegion x) := by
  simp [despreadSamples]

/-- The sign of sample `i` is the code value of its chip, whatever the code has beyond the values used. -/
theorem sampleSigns_bitsOf (s : State) (r : Region) {f : Nat} (hf : 0 < f) (ns chips : Nat) :
    sampleSigns (bitsOf s r (min f chips)) f ns chips =
      (List.range (chips * ns)).map fun i => s.bitAt r (i / ns % f) := by
  rw [← flatMap_range_blocks chips ns fun k _ => s.bitAt r (k % f), sampleSigns]
  refine List.flatMap_congr fun k hk => ?_
  have hlt : k % f < min f chips :=
    lt_min (Nat.mod_lt k hf) ((Nat.mod_le k f).trans_lt (List.mem_range.mp hk))
  simp [bitsOf, hlt]

theorem despreadData_of_ready {sel : CodeSel} {x : WaveSel} {s : State} (h : DespreadReady sel x s) :
    despreadData sel x s = .ok (despreadSamples sel x s) := by
  obtain ⟨hwf, -, hsf, hlen, hwhole, hcode, hwave⟩ := h
  obtain ⟨code, hreadCode, hbits⟩ := readBits_of_written hwf hcode
  refine (despreadData_eq_ok sel x s _).mpr ⟨code, hreadCode, _, readSeq_of_written s _ _ hwf hwave, ?_⟩
  rw [hbits, despreadWave, sampleSigns_bitsOf s _ (by omega),
    Nat.div_mul_cancel (Nat.dvd_of_mod_eq_zero hwhole), List.zipWith_map, List.zipWith_self]
  rfl

theorem exec_despread_of_ready {sel : CodeSel} {x : WaveSel} {s : State} (h : DespreadReady sel x s) :
    exec (.despread sel x) s = .next (completeOk (s.putSeq .desp (despreadSamples sel x s))) := by
  obtain ⟨-, hcfg, -, hlen, hwhole, -, -⟩ := id h
  have hrule := (despreadRule_eq_ok sel x s _).mpr ⟨hcfg, hlen, hwhole, _, despreadData_of_ready h, rfl⟩
  rw [exec, execDespread, hrule, complete_ok]

/-- Settles O35: the signal by index. -/
theorem despreadRemovesTheCode : Obligations.DespreadRemovesTheCode := by
  intro sel x s h
  refine ⟨_, exec_despread_of_ready h, ⟨rfl, keepsElements_putSeq s .desp _⟩, by simp, fun k hk => ?_⟩
  have hk' : k < s.lenOf (waveRegion x) := by simpa using hk
  simp [despreadSamples, hk']

/-! ### CORRELATE -/

/-- Windows of a sequence given by index. -/
theorem windows_map_range (size n : Nat) (g : Nat → F64) :
    windows size n ((List.range (n * size)).map g) =
      (List.range n).map fun i => (List.range size).map fun j => g (i * size + j) := by
  induction n generalizing g with
  | zero => simp [windows]
  | succ n ih =>
    have hsplit : (List.range ((n + 1) * size)).map g =
        (List.range size).map g ++ (List.range (n * size)).map fun j => g (size + j) := by
      rw [Nat.succ_mul, Nat.add_comm, List.range_add, List.map_append, List.map_map]
      rfl
    rw [windows, hsplit, List.take_left' (by simp), List.drop_left' (by simp), ih, List.range_succ_eq_map,
      List.map_cons, List.map_map]
    simp [Function.comp_def, Nat.succ_mul, Nat.add_comm, Nat.add_left_comm]

/-- The sums of CORRELATE for `n` symbols of a despread signal given by index. -/
def correlationSums (s : State) (desp : Nat → F64) (n : Nat) : List F64 :=
  (List.range n).map (correlationAt s desp)

@[simp] theorem correlationSums_length (s : State) (desp : Nat → F64) (n : Nat) :
    (correlationSums s desp n).length = n := by
  simp [correlationSums]

theorem correlations_eq_correlationSums (s : State) (desp : Nat → F64) {m : Nat} (hm : m % s.nss.toNat = 0) :
    correlations s.nss.toNat (m / s.nss.toNat) (s.samples .ref m) ((List.range m).map desp) =
      correlationSums s desp (m / s.nss.toNat) := by
  have hwindows := windows_map_range s.nss.toNat (m / s.nss.toNat) fun q => fmul (s.sampleAt .ref q) (desp q)
  rw [Nat.div_mul_cancel (Nat.dvd_of_mod_eq_zero hm)] at hwindows
  rw [correlations, State.samples, List.zipWith_map, List.zipWith_self, hwindows, List.map_map]
  rfl

theorem lenOf_putCorrelations (sums : List F64) (s : State) :
    (putCorrelations sums s).lenOf .corr = sums.length ∧
      (putCorrelations sums s).lenOf .result = sums.length := by
  simp [putCorrelations]

theorem elem_putCorrelations {s u : State} {desp : Nat → F64} {n k : Nat} (hk : k < n) :
    (putCorrelations (correlationSums s desp n) u).elem .corr k = some (correlationAt s desp k) ∧
      (putCorrelations (correlationSums s desp n) u).elem .result k =
        some (bitElem (decision (correlationAt s desp k))) := by
  simp [putCorrelations, correlationSums, hk]

theorem exec_correlate_of_ready {s : State} (hwf : s.mem.wf = true) (hcfg : s.cfgValid = true)
    (h : CorrelateReady (s.lenOf .desp) s) (hdesp : Written s .desp (s.lenOf .desp)) :
    exec .correlate s = .next (completeOk
      (putCorrelations (correlationSums s (s.sampleAt .desp) (s.lenOf .desp / s.nss.toNat)) s)) := by
  obtain ⟨hwhole, hlen, hroom, href⟩ := h
  have hrule := (correlateRule_eq_ok s _).mpr
    ⟨hcfg, (correlateChecks_eq_ok _ s ()).mpr ⟨hwhole, hlen, hroom⟩, _, readSeq_of_written s .ref _ hwf href,
      _, readSeq_of_written s .desp _ hwf hdesp, rfl⟩
  rw [exec, execCorrelate, hrule, complete_ok]
  exact congrArg (fun sums => Host.Outcome.next (completeOk (putCorrelations sums s)))
    (correlations_eq_correlationSums s _ hwhole)

/-- Settles O36: the sums by index. -/
theorem correlateSumsEachSymbol : Obligations.CorrelateSumsEachSymbol := by
  intro s hwf hcfg h hdesp
  have hexec := exec_correlate_of_ready hwf hcfg h hdesp
  obtain ⟨hcorr, hresult⟩ :=
    lenOf_putCorrelations (correlationSums s (s.sampleAt .desp) (s.lenOf .desp / s.nss.toNat)) s
  rw [correlationSums_length] at hcorr hresult
  exact ⟨_, hexec, ⟨rfl, commandsWriteOnlyTheirRegions _ s _ hexec⟩, hcorr, hresult,
    fun k hk => elem_putCorrelations hk⟩

/-! ### DEMOD and DEMOD_WRONG -/

/-- Settles O40: the two commands run one rule; the words are the encoder's, and OPT[0], which the third sets,
is reserved (R92). -/
theorem demodWrongIsDemodWithCodeB : Obligations.DemodWrongIsDemodWithCodeB :=
  ⟨fun _ _ => rfl, decode_encode (.demodWrong .tx), decode_encode (.demodWrong .rx), by decide⟩

/-- The state DEMOD leaves, its completion still to come. -/
def demodulated (sel : CodeSel) (x : WaveSel) (s : State) : State :=
  putCorrelations (correlationSums s (despreadAt sel x s) (s.lenOf (waveRegion x) / s.nss.toNat))
    (s.putSeq .desp (despreadSamples sel x s))

theorem exec_demod_of_ready {sel : CodeSel} {x : WaveSel} {s : State} (h : DespreadReady sel x s)
    (hcorr : CorrelateReady (s.lenOf (waveRegion x)) s) :
    exec (.demod sel x) s = .next (completeOk (demodulated sel x s)) := by
  obtain ⟨hwf, hcfg, -, hlen, hchips, -, -⟩ := id h
  obtain ⟨hwhole, hreflen, hroom, href⟩ := hcorr
  have hrule := (demodRule_eq_ok sel x s _).mpr
    ⟨hcfg, hlen, hchips, (correlateChecks_eq_ok _ s ()).mpr ⟨hwhole, hreflen, hroom⟩, _,
      despreadData_of_ready h, _, readSeq_of_written s .ref _ hwf href, rfl⟩
  rw [exec, execDemod, hrule, complete_ok, demodulated, ← correlations_eq_correlationSums s _ hwhole]
  rfl

/-- Beside DESP, CORR, RESULT and their lengths, DEMOD leaves what it began with. -/
theorem demodulated_frame (sel : CodeSel) (x : WaveSel) (s : State) :
    { completeOk (demodulated sel x s) with mem := s.mem, len := s.len } = completeOk s := by
  simp [demodulated, putCorrelations, completeOk, State.putSeq]

theorem demodulated_completedInto {sel : CodeSel} {x : WaveSel} {s : State}
    (h : exec (.demod sel x) s = .next (completeOk (demodulated sel x s))) :
    CompletedInto [.desp, .corr, .result] s (completeOk (demodulated sel x s)) :=
  ⟨demodulated_frame sel x s, commandsWriteOnlyTheirRegions _ s _ h⟩

theorem lenOf_demodulated (sel : CodeSel) (x : WaveSel) (s : State) :
    (demodulated sel x s).lenOf .desp = s.lenOf (waveRegion x) ∧
      (demodulated sel x s).lenOf .corr = s.lenOf (waveRegion x) / s.nss.toNat ∧
      (demodulated sel x s).lenOf .result = s.lenOf (waveRegion x) / s.nss.toNat := by
  simp [demodulated, putCorrelations]

theorem elem_demodulated_desp {sel : CodeSel} {x : WaveSel} {s : State} {k : Nat}
    (hk : k < s.lenOf (waveRegion x)) :
    (demodulated sel x s).elem .desp k = some (despreadAt sel x s k) := by
  simp [demodulated, putCorrelations, despreadSamples, hk]

/-- Settles O38: the signal and the sums by index; DEMOD_WRONG is DEMOD with CODEB. -/
theorem demodRecoversDecisions : Obligations.DemodRecoversDecisions := by
  intro sel x s h hcorr
  have hexec := exec_demod_of_ready h hcorr
  obtain ⟨hdespLen, hcorrLen, hresultLen⟩ := lenOf_demodulated sel x s
  refine ⟨_, hexec, fun hsel => ?wrong, demodulated_completedInto hexec, hdespLen, hcorrLen, hresultLen,
    fun k hk => elem_demodulated_desp (hdespLen ▸ hk), fun k hk => elem_putCorrelations (hresultLen ▸ hk)⟩
  case wrong =>
    subst hsel
    exact (demodWrongIsDemodWithCodeB.1 x s).trans hexec

/-- A despread signal is as long as its waveform (R200). -/
theorem despreadData_length {sel : CodeSel} {x : WaveSel} {s : State} {d : List F64}
    (hwhole : s.lenOf (waveRegion x) % s.ns.toNat = 0) (h : despreadData sel x s = .ok d) :
    d.length = s.lenOf (waveRegion x) := by
  obtain ⟨code, -, wave, hwave, rfl⟩ := (despreadData_eq_ok sel x s d).mp h
  obtain ⟨hlen, -⟩ := readSeq_ok s _ _ wave hwave
  rw [despreadWave, List.length_zipWith, sampleSigns_length,
    Nat.div_mul_cancel (Nat.dvd_of_mod_eq_zero hwhole), hlen, Nat.min_self]

/-- Settles O39: CORRELATE checks and reads after DESPREAD what DEMOD checks and reads before it, since DESPREAD
writes DESP alone. -/
theorem demodIsDespreadThenCorrelate : Obligations.DemodIsDespreadThenCorrelate := by
  intro sel x s u t hdespread hu hcorrelate ht
  obtain ⟨u, hrule, rfl⟩ := ruleSucceeds_of_exec hdespread hu
  obtain ⟨hcfg, hlen, hwhole, d, hd, rfl⟩ := (despreadRule_eq_ok sel x s u).mp hrule
  obtain ⟨t, hrule', rfl⟩ := ruleSucceeds_of_exec hcorrelate ht
  obtain ⟨-, hchecks, ref, href, desp, hdesp, rfl⟩ := (correlateRule_eq_ok _ t).mp hrule'
  have hlend : (completeOk (s.putSeq .desp d)).lenOf .desp = s.lenOf (waveRegion x) := by
    simp [despreadData_length hwhole hd]
  rw [hlend] at hchecks href hdesp
  have href' : readSeq s .ref (s.lenOf (waveRegion x)) = .ok ref := by
    rw [← href]
    exact (readSeq_putSeq_other s .desp .ref d _ (by decide)).symm
  obtain rfl : d = desp := by
    have hback := readSeq_putSeq_same s .desp d
    rw [despreadData_length hwhole hd] at hback
    exact Except.ok.inj (hback.symm.trans hdesp)
  have hreflen : (completeOk (s.putSeq .desp d)).lenOf .ref = s.lenOf .ref := by simp
  rw [correlateChecks_eq_ok, hreflen] at hchecks
  have hdemod := (demodRule_eq_ok sel x s _).mpr
    ⟨hcfg, hlen, hwhole, (correlateChecks_eq_ok _ s ()).mpr hchecks, d, hd, ref, href', rfl⟩
  rw [exec, execDemod, hdemod, complete_ok, hlend]
  rfl

end Sys2Proof.Machine
end

section
/-! The laws of the demodulator (44_demodulator.md R204 to R206): the signal that SPREAD and MODULATE send without
noise, the sum that DEMOD makes of each of its symbols, and the messages that come back. -/

namespace Sys2Proof.Machine

/-! ### What a command leaves of the configuration and of the frame -/

/-- `t` has the configuration, the frame to send and the parameters that `s` has. -/
structure SameSetup (s t : State) : Prop where
  cfgValid : t.cfgValid = s.cfgValid
  sf : t.sf = s.sf
  ns : t.ns = s.ns
  nss : t.nss = s.nss
  frameKind : t.frameKind = s.frameKind
  field : t.field = s.field
  params : t.params = s.params

theorem SameSetup.trans {s t u : State} (h : SameSetup s t) (h' : SameSetup t u) : SameSetup s u where
  cfgValid := h'.cfgValid.trans h.cfgValid
  sf := h'.sf.trans h.sf
  ns := h'.ns.trans h.ns
  nss := h'.nss.trans h.nss
  frameKind := h'.frameKind.trans h.frameKind
  field := h'.field.trans h.field
  params := h'.params.trans h.params

theorem SameSetup.cap {s t : State} (h : SameSetup s t) (r : Region) : t.cap r = s.cap r := by
  rw [State.cap, State.cap, h.params]

/-- Only CONFIG writes the configuration, and no command what the host wrote (R29 to R37). -/
theorem sameSetup_of_exec {i : Instr} {s t : State} (h : exec i s = .next t) (hi : i ≠ .config) :
    SameSetup s t := by
  obtain ⟨-, -, -, -, hcfg⟩ := flagsHaveOneWriter i s t h
  obtain ⟨⟨-, -, -, -, hsf, -, -, -, -, -, hkind, hfield, hparams⟩, hderived, -⟩ :=
    registersHaveTheirWriters i s t h
  obtain ⟨-, hns, hnss⟩ := hderived hi
  refine ⟨?_, hsf, hns, hnss, hkind, hfield, hparams⟩
  by_contra hne
  exact hi (hcfg hne).1

theorem elem_of_exec {i : Instr} {s t : State} (h : exec i s = .next t) {r : Region} (hr : r ∉ outputsOf i)
    (k : Nat) : t.elem r k = s.elem r k :=
  ((commandsWriteOnlyTheirRegions i s t h).1 r hr).1 k

theorem lenOf_of_exec {i : Instr} {s t : State} (h : exec i s = .next t) {r : Region} (hr : r ∉ outputsOf i) :
    t.lenOf r = s.lenOf r :=
  ((commandsWriteOnlyTheirRegions i s t h).1 r hr).2

theorem bitAt_congr {s t : State} {r : Region} {k : Nat} (h : t.elem r k = s.elem r k) :
    t.bitAt r k = s.bitAt r k := by
  rw [State.bitAt, h, State.bitAt]

theorem sampleAt_congr {s t : State} {r : Region} {k : Nat} (h : t.elem r k = s.elem r k) :
    t.sampleAt r k = s.sampleAt r k := by
  rw [State.sampleAt, h, State.sampleAt]

theorem sampleAt_of_elem {s : State} {r : Region} {k : Nat} {x : F64} (h : s.elem r k = some x) :
    s.sampleAt r k = x := by
  rw [State.sampleAt, h, Option.getD_some]

/-! ### The carrier of a current configuration -/

theorem written_carrier {s : State} (hi : s.Inv) : Written s .splus s.ns.toNat := by
  obtain ⟨hlen, hsamples⟩ := hi.splus
  intro n hn
  obtain ⟨x, hx, -⟩ := hsamples n (hlen ▸ hn)
  simp [hx]

theorem isFinite_carrier {s : State} (hi : s.Inv) {n : Nat} (hn : n < s.ns.toNat) :
    isFinite (s.sampleAt .splus n) = true := by
  obtain ⟨hlen, hsamples⟩ := hi.splus
  obtain ⟨x, hx, hfinite⟩ := hsamples n (hlen ▸ hn)
  rwa [sampleAt_of_elem hx]

/-- CONFIG rejects a carrier whose squares all vanish (R111). -/
theorem exists_carrier_square_ne_zero {s : State} (hi : s.Inv) (hcfg : s.cfgValid = true) :
    ∃ n < s.ns.toNat, orderKey (fmul (s.sampleAt .splus n) (s.sampleAt .splus n)) ≠ 0 := by
  obtain ⟨-, -, -, -, hnorm⟩ := hi.config hcfg
  have hfinite : ∀ x ∈ s.samples .splus s.ns.toNat, isFinite x = true := by
    intro x hx
    obtain ⟨n, hn, rfl⟩ := List.mem_map.mp hx
    exact isFinite_carrier hi (List.mem_range.mp hn)
  obtain ⟨x, hx, hne⟩ := exists_square_ne_zero hfinite hnorm
  obtain ⟨n, hn, rfl⟩ := List.mem_map.mp hx
  exact ⟨n, List.mem_range.mp hn, hne⟩

/-! ### The decision of one symbol -/

/-- The samples of symbol `i` are those of its `f` chips. Where every product leans to one side the decision is
that side, if it is -1 or some product is not zero (R204). -/
theorem decision_correlationAt {s : State} {desp : Nat → F64} {c : Bool} {f i : Nat} {term : Nat → Nat → F64}
    (hnss : s.nss.toNat = s.ns.toNat * f)
    (hterm : ∀ q, q / s.nss.toNat = i →
      fmul (s.sampleAt .ref q) (desp q) = term (q / s.ns.toNat % f) (q % s.ns.toNat))
    (hleans : ∀ k < f, ∀ n < s.ns.toNat, Leans c (term k n))
    (hne : c = true → ∃ k < f, ∃ n < s.ns.toNat, orderKey (term k n) ≠ 0) :
    decision (correlationAt s desp i) = c := by
  have hwindow {j : Nat} (hj : j < s.nss.toNat) : (i * s.nss.toNat + j) / s.nss.toNat = i := by
    rw [Nat.mul_comm, Nat.mul_add_div (by omega), Nat.div_eq_of_lt hj, Nat.add_zero]
  obtain ⟨hsum, hsumNe⟩ := sumSeq_of_leans (c := c) (xs := (List.range s.nss.toNat).map fun j =>
    fmul (s.sampleAt .ref (i * s.nss.toNat + j)) (desp (i * s.nss.toNat + j))) fun x hx => by
      obtain ⟨j, hj, rfl⟩ := List.mem_map.mp hx
      have hj : j < s.nss.toNat := List.mem_range.mp hj
      have hpos : 0 < s.ns.toNat * f := by omega
      rw [hterm _ (hwindow hj)]
      exact hleans _ (Nat.mod_lt _ (Nat.pos_of_mul_pos_left hpos)) _
        (Nat.mod_lt _ (Nat.pos_of_mul_pos_right hpos))
  refine decision_of_leans hsum fun hc => hsumNe ?_
  obtain ⟨k, hk, n, hn, hkn⟩ := hne hc
  have hj : k * s.ns.toNat + n < s.nss.toNat := by
    rw [hnss]
    nlinarith
  have hpos : 0 < s.ns.toNat := by omega
  have hq : i * s.nss.toNat + (k * s.ns.toNat + n) = s.ns.toNat * (f * i + k) + n := by
    rw [hnss]
    ring
  refine ⟨_, List.mem_map.mpr ⟨_, List.mem_range.mpr hj, rfl⟩, ?_⟩
  rw [hterm _ (hwindow hj), hq, Nat.mul_add_div hpos, Nat.mul_add_mod, Nat.div_eq_of_lt hn, Nat.mod_eq_of_lt hn,
    Nat.add_zero, Nat.mul_add_mod, Nat.mod_eq_of_lt hk]
  exact hkn

/-! ### The signal sent -/

/-- How many samples the message in BITS makes under a code. -/
def signalLength (sel : CodeSel) (s : State) : Nat :=
  s.lenOf .bits * s.lenOf (codeRegion sel) * s.ns.toNat

/-- Sample `q` of the message in BITS, spread and modulated without noise (R165, R180, R183). -/
def sentSample (intf : Bool) (sel : CodeSel) (s : State) (q : Nat) : F64 :=
  let clean := signed
    (bipMul (s.bitAt .bits (q / s.ns.toNat / s.lenOf (codeRegion sel)))
      (s.bitAt (codeRegion sel) (q / s.ns.toNat % s.lenOf (codeRegion sel))))
    (s.sampleAt .splus (q % s.ns.toNat))
  if intf then fadd clean (s.sampleAt .intf q) else clean

/-- `b` holds in TX the message that stands in BITS of `s`, and in REF the carrier, and is otherwise as `s` as
far as a receiver reads it. -/
structure Transmitted (intf : Bool) (sel : CodeSel) (s b : State) : Prop where
  inv : b.Inv
  setup : SameSetup s b
  kept : ∀ r, r ∉ [Region.chips, .tx, .ref] → (∀ k, b.elem r k = s.elem r k) ∧ b.lenOf r = s.lenOf r
  txLen : b.lenOf .tx = signalLength sel s
  refLen : b.lenOf .ref = signalLength sel s
  tx : ∀ q < signalLength sel s, b.elem .tx q = some (sentSample intf sel s q)
  ref : ∀ q < signalLength sel s, b.elem .ref q = some (s.sampleAt .splus (q % s.ns.toNat))

/-- SPREAD and MODULATE complete where the message fits, and send it. -/
theorem exec_transmit {intf : Bool} {sel : CodeSel} {s : State} (hi : s.Inv) (h : SpreadReady sel s)
    (hroom : signalLength sel s ≤ s.cap .tx)
    (hintf : intf = true → s.lenOf .intf = signalLength sel s ∧ Written s .intf (signalLength sel s)) :
    ∃ a b, exec (.spread sel) s = .next a ∧ exec (.modulate false intf false .internal) a = .next b ∧
      Transmitted intf sel s b := by
  obtain ⟨a, hspread, -, hchipsLen, hchips⟩ := spreadMultipliesBitsByCode sel s h
  have hsetup : SameSetup s a := sameSetup_of_exec hspread (by simp)
  have hinv : a.Inv := inv_exec hi hspread
  have hlength : modulateLength a = signalLength sel s := by
    rw [modulateLength, hchipsLen, hsetup.ns, signalLength]
  have hsame {r : Region} (hr : r ≠ .chips) (k : Nat) : a.elem r k = s.elem r k :=
    elem_of_exec hspread (by simpa [outputsOf] using hr) k
  have hready : ModulateReady intf a := by
    obtain ⟨-, hcfg, -⟩ := h
    refine ⟨hinv.canonical, hsetup.cfgValid.trans hcfg, ?_, fun k hk => by simp [hchips k hk],
      fun _ => written_carrier hinv, fun hon => ?_⟩
    · rwa [hlength, hsetup.cap]
    · obtain ⟨hlen, hwritten⟩ := hintf hon
      rw [hlength]
      exact ⟨(lenOf_of_exec hspread (by simp [outputsOf])).trans hlen, fun k hk => by
        rw [hsame (by decide) k]
        exact hwritten k hk⟩
  obtain ⟨b, hmodulate, -, -, htxLen, hrefLen, hsamples, -⟩ :=
    modulateCleanWaveform intf false .internal a hready
  rw [hlength] at htxLen hrefLen hsamples
  refine ⟨a, b, hspread, hmodulate, inv_exec hinv hmodulate,
    hsetup.trans (sameSetup_of_exec hmodulate (by simp)), fun r hr => ?kept, htxLen, hrefLen,
    fun q hq => ?tx, fun q hq => ?ref⟩
  case kept =>
    have hmod : r ∉ outputsOf (.modulate false intf false .internal) := fun hmem =>
      hr (List.mem_cons_of_mem _ hmem)
    have hspr : r ∉ outputsOf (.spread sel) := by
      simp only [List.mem_cons, not_or] at hr
      simpa [outputsOf] using hr.1
    exact ⟨fun k => (elem_of_exec hmodulate hmod k).trans (elem_of_exec hspread hspr k),
      (lenOf_of_exec hmodulate hmod).trans (lenOf_of_exec hspread hspr)⟩
  case tx =>
    have hchip : q / s.ns.toNat < a.lenOf .chips := by
      rw [hchipsLen]
      exact (Nat.div_lt_iff_lt_mul (Nat.pos_of_lt_mul_left hq)).mpr hq
    obtain ⟨htx, -⟩ := hsamples q hq
    have hbit := congrArg (fun w : Option Word => elemBit (w.getD 0)) (hchips _ hchip)
    simp only [Option.getD_some, elemBit_bitElem] at hbit
    rw [htx, sentSample, hsetup.ns, sampleAt_congr (hsame (by decide) _), sampleAt_congr (hsame (by decide) _),
      State.bitAt, hbit]
  case ref =>
    obtain ⟨-, href⟩ := hsamples q hq
    rw [href, hsetup.ns, sampleAt_congr (hsame (by decide) _)]

/-! ### What DEMOD makes of it -/

/-- The samples of a symbol are those of its chips, `SF` of them (R32). -/
theorem nss_eq_of_config {s : State} (hi : s.Inv) (hcfg : s.cfgValid = true) {f : Nat} (hf : (f : Int) = s.sf.toInt) :
    s.nss.toNat = s.ns.toNat * f := by
  obtain ⟨-, -, -, hnss, -⟩ := hi.config hcfg
  rw [← hf] at hnss
  exact_mod_cast hnss

theorem codeRegion_notMem_sent (sel : CodeSel) : codeRegion sel ∉ [Region.chips, .tx, .ref] := by
  cases sel <;> decide

section

variable {intf : Bool} {sel : CodeSel} {s b : State} (htx : Transmitted intf sel s b) (hi : s.Inv)
  (h : SpreadReady sel s)
include htx hi h

theorem Transmitted.nss_eq : b.nss.toNat = s.ns.toNat * s.lenOf (codeRegion sel) := by
  obtain ⟨-, hcfg, hlen, -⟩ := h
  rw [htx.setup.nss]
  exact nss_eq_of_config hi hcfg hlen

/-- The signal is one symbol for each bit. -/
theorem Transmitted.symbols : signalLength sel s % b.nss.toNat = 0 ∧
    signalLength sel s / b.nss.toNat = s.lenOf .bits := by
  obtain ⟨-, hcfg, hlen, -⟩ := id h
  obtain ⟨hsf, -, hns, -⟩ := hi.config hcfg
  have hmul : signalLength sel s = s.lenOf .bits * b.nss.toNat := by
    rw [signalLength, htx.nss_eq hi h]
    ring
  have hpos : 0 < b.nss.toNat := by
    rw [htx.nss_eq hi h]
    exact Nat.mul_pos hns (by omega)
  rw [hmul]
  exact ⟨Nat.mul_mod_left _ _, Nat.mul_div_cancel _ hpos⟩

/-- DEMOD of the signal with any written code of length SF completes, with one decision for each bit. -/
theorem Transmitted.exec_demod {own : CodeSel} (hroom : s.lenOf .bits ≤ s.cap .result)
    (hlen : (s.lenOf (codeRegion own) : Int) = s.sf.toInt)
    (hcode : s.lenOf .bits ≠ 0 → Written s (codeRegion own) (s.lenOf (codeRegion own))) :
    ∃ c, exec (.demod own .tx) b = .next c ∧ c.err = false ∧ c.lenOf .result = s.lenOf .bits ∧
      ∀ i < s.lenOf .bits,
        c.elem .result i = some (bitElem (decision (correlationAt b (despreadAt own .tx b) i))) := by
  obtain ⟨-, hcfg, -⟩ := id h
  obtain ⟨hsf, -⟩ := hi.config hcfg
  obtain ⟨hwhole, hcount⟩ := htx.symbols hi h
  obtain ⟨hcodeElem, hcodeLen⟩ := htx.kept _ (codeRegion_notMem_sent own)
  have hdespread : DespreadReady own .tx b := by
    refine ⟨htx.inv.canonical, htx.setup.cfgValid.trans hcfg, htx.setup.sf ▸ hsf, ?len, ?whole, ?code, ?wave⟩
    case len => rw [hcodeLen, hlen, htx.setup.sf]
    case whole =>
      rw [waveRegion, htx.txLen, htx.setup.ns]
      exact Nat.mul_mod_left _ _
    case code =>
      intro k hk
      rw [waveRegion, htx.txLen, hcodeLen] at hk
      obtain ⟨hkcode, hkchips⟩ := lt_min_iff.mp hk
      rw [hcodeElem k]
      refine hcode (fun hzero => ?_) k hkcode
      simp [signalLength, hzero] at hkchips
    case wave =>
      intro q hq
      rw [waveRegion, htx.txLen] at hq
      simp [waveRegion, htx.tx q hq]
  have hcorrelate : CorrelateReady (b.lenOf (waveRegion .tx)) b := by
    rw [waveRegion, htx.txLen]
    exact ⟨hwhole, htx.refLen, by rwa [hcount, htx.setup.cap], fun q hq => by simp [htx.ref q hq]⟩
  obtain ⟨c, hexec, -, ⟨hframe, -⟩, -, -, hresultLen, -, hsymbols⟩ :=
    demodRecoversDecisions own .tx b hdespread hcorrelate
  rw [waveRegion, htx.txLen, hcount] at hresultLen
  exact ⟨c, hexec, congrArg State.err hframe, hresultLen, fun i hlt => (hsymbols i (hresultLen ▸ hlt)).2⟩

/-- The decision of symbol `i` is made of the products of its carrier samples with the despread signal. -/
theorem Transmitted.decision_eq {own : CodeSel} (hlen : (s.lenOf (codeRegion own) : Int) = s.sf.toInt)
    {i : Nat} (hlt : i < s.lenOf .bits) {c : Bool} {term : Nat → Nat → F64}
    (hterm : ∀ q < signalLength sel s, q / s.ns.toNat / s.lenOf (codeRegion sel) = i →
      fmul (s.sampleAt .splus (q % s.ns.toNat))
        (signed (s.bitAt (codeRegion own) (q / s.ns.toNat % s.lenOf (codeRegion sel))) (sentSample intf sel s q)) =
      term (q / s.ns.toNat % s.lenOf (codeRegion sel)) (q % s.ns.toNat))
    (hleans : ∀ k < s.lenOf (codeRegion sel), ∀ n < s.ns.toNat, Leans c (term k n))
    (hne : c = true → ∃ k < s.lenOf (codeRegion sel), ∃ n < s.ns.toNat, orderKey (term k n) ≠ 0) :
    decision (correlationAt b (despreadAt own .tx b) i) = c := by
  obtain ⟨-, -, hlenSel, -⟩ := id h
  obtain ⟨hcodeElem, hcodeLen⟩ := htx.kept _ (codeRegion_notMem_sent own)
  obtain ⟨-, hcount⟩ := htx.symbols hi h
  have hnss := htx.nss_eq hi h
  rw [← htx.setup.ns] at hterm hleans hne hnss
  refine decision_correlationAt hnss (fun q hq => ?_) hleans hne
  have hqlt : q < signalLength sel s :=
    Nat.lt_of_div_lt_div (c := b.nss.toNat) (by rw [hq, hcount]; exact hlt)
  rw [← hterm q hqlt (by rwa [Nat.div_div_eq_div_mul, ← hnss]), despreadAt, waveRegion,
    sampleAt_of_elem (htx.ref q hqlt), sampleAt_of_elem (htx.tx q hqlt), htx.setup.ns, hcodeLen,
    bitAt_congr (hcodeElem _), show s.lenOf (codeRegion own) = s.lenOf (codeRegion sel) by omega]

end

/-! ### One transmitter (R204, R206) -/

/-- A code that is `e` times the sending code gives every bit back times `e`. -/
theorem exec_clean_link {e : Bool} {sel own : CodeSel} {s : State} (hi : s.Inv) (h : SpreadReady sel s)
    (hroom : signalLength sel s ≤ s.cap .tx) (hresult : s.lenOf .bits ≤ s.cap .result)
    (hlen : (s.lenOf (codeRegion own) : Int) = s.sf.toInt)
    (hwritten : s.lenOf .bits ≠ 0 → Written s (codeRegion own) (s.lenOf (codeRegion own)))
    (hcode : ∀ k < s.lenOf (codeRegion sel),
      s.bitAt (codeRegion own) k = bipMul e (s.bitAt (codeRegion sel) k)) :
    ∃ a b c, exec (.spread sel) s = .next a ∧ exec (.modulate false false false .internal) a = .next b ∧
      exec (.demod own .tx) b = .next c ∧ c.err = false ∧ c.lenOf .result = s.lenOf .bits ∧
      ∀ i < s.lenOf .bits, c.elem .result i = some (bitElem (bipMul e (s.bitAt .bits i))) := by
  obtain ⟨a, b, hspread, hmodulate, htx⟩ := exec_transmit (intf := false) hi h hroom (by simp)
  obtain ⟨c, hdemod, herr, hresultLen, hdecisions⟩ := htx.exec_demod hi h hresult hlen hwritten
  refine ⟨a, b, c, hspread, hmodulate, hdemod, herr, hresultLen, fun i hlt => ?_⟩
  obtain ⟨-, hcfg, hlenSel, -⟩ := id h
  obtain ⟨hsf, -⟩ := hi.config hcfg
  have hpos : 0 < s.lenOf (codeRegion sel) := by omega
  rw [hdecisions i hlt, htx.decision_eq hi h hlen hlt
    (term := fun _ n => signed (bipMul e (s.bitAt .bits i))
      (fmul (s.sampleAt .splus n) (s.sampleAt .splus n)))]
  case hterm =>
    intro q hq hqi
    have hns : q % s.ns.toNat < s.ns.toNat := Nat.mod_lt _ (Nat.pos_of_lt_mul_left hq)
    simp only [sentSample, hqi, Bool.false_eq_true, if_false]
    rw [hcode _ (Nat.mod_lt _ hpos), signed_signed, bipMul_bipMul_cancel,
      fmul_signed _ (isFinite_carrier hi hns) (isFinite_carrier hi hns)]
  case hleans => exact fun _ _ n hn => leans_signed (leans_fmul_self (isFinite_carrier hi hn))
  case hne =>
    obtain ⟨n, hn, hsquare⟩ := exists_carrier_square_ne_zero hi hcfg
    exact fun _ => ⟨0, hpos, n, hn, (orderKey_signed_eq_zero_iff _ _).not.mpr hsquare⟩

/-- Settles O41: the code that sent the message is +1 times itself. -/
theorem noiselessRoundTrip : Obligations.NoiselessRoundTrip := by
  intro sel s hi h hroom hresult
  obtain ⟨-, -, hlen, -, -, hwritten⟩ := id h
  simpa using exec_clean_link (e := true) hi h hroom hresult hlen hwritten (by simp)

/-- Settles O43: the negated code is -1 times the one that sent the message. -/
theorem negatedCodeInvertsEveryBit : Obligations.NegatedCodeInvertsEveryBit := by
  intro s hi h hlen hwritten hnegated hroom hresult
  have hcode : ∀ k < s.lenOf (codeRegion .codeA),
      s.bitAt (codeRegion .codeB) k = bipMul false (s.bitAt (codeRegion .codeA) k) := fun k hk => by
    rw [false_bipMul]
    exact hnegated k hk
  obtain ⟨a, b, c, hspread, hmodulate, hdemod, herr, hresultLen, hbits⟩ :=
    exec_clean_link (own := .codeB) hi h hroom hresult hlen (fun _ => hwritten) hcode
  refine ⟨a, b, c, hspread, hmodulate, (demodWrongIsDemodWithCodeB.1 .tx b).trans hdemod, herr, hresultLen,
    fun k hk => ?_⟩
  rw [hbits k hk, false_bipMul]

/-! ### The whole link (R204) -/

theorem maskOf_eq_zero {bs : List Bool} (h : ∀ b ∈ bs, b = false) : maskOf bs = 0 := by
  induction bs with
  | nil => rfl
  | cons b bs ih =>
    obtain ⟨rfl, hrest⟩ := List.forall_mem_cons.mp h
    rw [maskOf, ih hrest]
    rfl

/-- Fields and text that do not differ leave no bit of the mask (R134). -/
theorem maskOf_same_fields (s : State) : maskOf (fieldDiffs s.field s ++ [false]) = 0 := by
  refine maskOf_eq_zero fun b hb => ?_
  simpa [fieldDiffs, List.zipWith_self] using hb

theorem drop_frameBytes (s : State) : (frameBytes s).drop 12 = textCodes s :=
  List.drop_left' (fieldBytes_length s)

/-- A state that has the frame's kind and text finds no difference in its text. -/
theorem textDiffers_of_same_text {s t : State} (hwf : t.mem.wf = true) (hkind : t.frameKind = s.frameKind)
    (hlen : t.lenOf .text = s.lenOf .text) (htext : ∀ k, t.elem .text k = s.elem .text k)
    (hwritten : Written s .text (textCount s)) : textDiffers (textCodes s) t = .ok false := by
  rw [textDiffers, hkind]
  cases hk : s.frameKind with
  | false => rfl
  | true =>
    have hcount : textCount s = t.lenOf .text := by rw [textCount, hk, if_pos rfl, hlen]
    have hread := readSeq_of_written t .text _ hwf fun k hkt => by
      rw [htext k]
      exact hwritten k (hcount ▸ hkt)
    have hcodes : textCodes s = (List.range (t.lenOf .text)).map (t.codePointAt .text) := by
      rw [textCodes, hcount]
      exact List.map_congr_left fun k _ => by rw [State.codePointAt, State.codePointAt, htext k]
    rw [if_pos rfl, textCodes_length, hcount, bne_self_eq_false, if_neg Bool.false_ne_true, readAll, hread, ok_bind,
      List.map_map, hcodes]
    exact congrArg Except.ok (bne_self_eq_false _)

/-- The bits that ENCODE writes are the frame's bytes, most significant bit first. -/
theorem bitsOf_encoded {s a : State} (h : EncodeReady s) (hexec : exec .encode s = .next a) (hi : a.Inv) :
    a.lenOf .bits = 96 + 8 * textCount s ∧ Written a .bits (a.lenOf .bits) ∧
      bitsOf a .bits (a.lenOf .bits) = (frameBytes s).flatMap byteBits := by
  cases (exec_encode_of_ready h).symm.trans hexec
  have hlen : (completeOk (s.putSeq .bits (frameElems s))).lenOf .bits = (frameElems s).length := by simp
  have hread : readSeq (completeOk (s.putSeq .bits (frameElems s))) .bits (frameElems s).length =
      .ok (frameElems s) := readSeq_putSeq_same s .bits _
  have hwritten := written_of_readSeq hread
  obtain ⟨ws, hws, hbits⟩ := readBits_of_written hi.canonical hwritten
  cases hws.symm.trans hread
  rw [hlen]
  exact ⟨frameElems_length s, hwritten, by rw [← hbits, map_elemBit_frameElems]⟩

/-- RESULT that holds the frame's bits is decoded to the frame's bytes. -/
theorem decodeBytes_of_result {s d : State} (h : EncodeReady s) (hi : d.Inv)
    (hlen : d.lenOf .result = 96 + 8 * textCount s) (hroom : textCount s ≤ d.cap .dtext)
    (hwritten : Written d .result (d.lenOf .result))
    (hbits : bitsOf d .result (d.lenOf .result) = (frameBytes s).flatMap byteBits) :
    decodeBytes .result d = .ok (frameBytes s) := by
  obtain ⟨els, hread, hels⟩ := readBits_of_written hi.canonical hwritten
  refine (decodeBytes_eq_ok .result d _).mpr ⟨(checkFrameLength_eq_ok d _ ()).mpr ?_, els, hread, ?_⟩
  · rw [bitRegion, hlen]
    omega
  · rw [hels, hbits, bytesOf_flatMap_byteBits (frameBytes_lt h)]

/-- COMPARE of the frame's bytes, with the frame's fields and text to compare to, finds no difference. -/
theorem exec_compare_of_same_frame {s d : State} {src : BitSource} (h : EncodeReady s)
    (hfield : d.field = s.field) (hbytes : decodeBytes src d = .ok (frameBytes s))
    (htext : textDiffers (textCodes s) d = .ok false) :
    ∃ e, exec (.compare src) d = .next e ∧ e.err = false ∧ e.cmpOk = true ∧ e.mismatch = 0 ∧
      e.dfield = s.field := by
  have hdfield : decodedFields (frameBytes s) = s.field := decodedFields_frameBytes h.1
  have hmask : maskOf (fieldDiffs (decodedFields (frameBytes s)) d ++ [false]) = 0 := by
    rw [hdfield, ← hfield]
    exact maskOf_same_fields d
  rw [← drop_frameBytes] at htext
  refine ⟨_, exec_compare_of_bytes hbytes htext, rfl, ?_, ?_, hdfield⟩
  · simp [hmask]
  · simp [hmask]

/-- Settles O42: O41 after ENCODE gives RESULT the frame's bits, and no command between has changed the frame
that COMPARE compares to. -/
theorem noiselessLinkRecoversTheFrame : Obligations.NoiselessLinkRecoversTheFrame := by
  intro sel s hi h hcfg hlen hcode hchips htx hresult hdtext
  obtain ⟨a, hencode, -⟩ := encodeLaysOutTheFrame s h
  have hinvA : a.Inv := inv_exec hi hencode
  have hsetupA : SameSetup s a := sameSetup_of_exec hencode (by simp)
  obtain ⟨hbitsLen, hbitsWritten, hbits⟩ := bitsOf_encoded h hencode hinvA
  have hregion : codeRegion sel ∉ outputsOf .encode := by cases sel <;> decide
  have hlenA : a.lenOf (codeRegion sel) = s.lenOf (codeRegion sel) := lenOf_of_exec hencode hregion
  have hready : SpreadReady sel a := by
    refine ⟨hinvA.canonical, hsetupA.cfgValid.trans hcfg, ?_, ?_, hbitsWritten, fun _ k hk => ?_⟩
    · rw [hlenA, hlen, hsetupA.sf]
    · rwa [hbitsLen, hlenA, hsetupA.cap]
    · rw [elem_of_exec hencode hregion]
      exact hcode k (hlenA ▸ hk)
  obtain ⟨b, c, d, hspread, hmodulate, hdemod, -, hresultLen, hresultBits⟩ :=
    noiselessRoundTrip sel a hinvA hready (by rwa [hbitsLen, hlenA, hsetupA.ns, hsetupA.cap])
      (by rwa [hbitsLen, hsetupA.cap])
  have hinvD : d.Inv := inv_exec (inv_exec (inv_exec hinvA hspread) hmodulate) hdemod
  have hsetup : SameSetup s d := ((hsetupA.trans (sameSetup_of_exec hspread (by simp))).trans
    (sameSetup_of_exec hmodulate (by simp))).trans (sameSetup_of_exec hdemod (by simp))
  have htextElem (k : Nat) : d.elem .text k = s.elem .text k := by
    rw [elem_of_exec hdemod (by simp [outputsOf]), elem_of_exec hmodulate (by simp [outputsOf]),
      elem_of_exec hspread (by simp [outputsOf]), elem_of_exec hencode (by simp [outputsOf])]
  have htextLen : d.lenOf .text = s.lenOf .text := by
    rw [lenOf_of_exec hdemod (by simp [outputsOf]), lenOf_of_exec hmodulate (by simp [outputsOf]),
      lenOf_of_exec hspread (by simp [outputsOf]), lenOf_of_exec hencode (by simp [outputsOf])]
  have hresultOf : bitsOf d .result (d.lenOf .result) = (frameBytes s).flatMap byteBits := by
    rw [← hbits, hresultLen]
    refine List.map_congr_left fun k hk => ?_
    rw [State.bitAt, hresultBits k (List.mem_range.mp hk), Option.getD_some, elemBit_bitElem]
  have hbytes := decodeBytes_of_result h hinvD (hresultLen.trans hbitsLen) (hsetup.cap .dtext ▸ hdtext)
    (fun k hk => by simp [hresultBits k (hresultLen ▸ hk)]) hresultOf
  have htext := textDiffers_of_same_text hinvD.canonical hsetup.frameKind htextLen htextElem h.2.1
  obtain ⟨e, hcompare, he⟩ := exec_compare_of_same_frame h hsetup.field hbytes htext
  exact ⟨a, b, c, d, e, hencode, hspread, hmodulate, hdemod, hcompare, he⟩

/-! ### Two transmitters (R205) -/

/-- The product of carrier sample `n` with what DEMOD with the code `own` makes of chip `k` of symbol `i`, when
the message `α` under CODEA and the message `β` under CODEB are sent at once. -/
def superposedTerm (own : CodeSel) (s : State) (α β : Bool) (k n : Nat) : F64 :=
  fmul (s.sampleAt .splus n) (signed (s.bitAt (codeRegion own) k)
    (fadd (signed (bipMul α (s.bitAt .codeA k)) (s.sampleAt .splus n))
      (signed (bipMul β (s.bitAt .codeB k)) (s.sampleAt .splus n))))

/-- The bit that the code `own` carries. -/
def ownBit (own : CodeSel) (α β : Bool) : Bool :=
  match own with
  | .codeA => α
  | .codeB => β

section

variable (own : CodeSel) {s : State} {α β : Bool} {k n : Nat} (hx : isFinite (s.sampleAt .splus n) = true)
include hx

/-- Where the two chips agree, the term is the carrier times its double, under the bit that `own` carries. -/
theorem superposedTerm_of_agree
    (hagree : bipMul (s.bitAt .codeA k) (s.bitAt .codeB k) = bipMul α β) :
    superposedTerm own s α β k n = fmul (s.sampleAt .splus n)
      (signed (ownBit own α β) (fadd (s.sampleAt .splus n) (s.sampleAt .splus n))) := by
  have hchips := (bipMul_eq_bipMul_iff α β _ _).mpr hagree
  cases own with
  | codeA => rw [superposedTerm, ← hchips, fadd_signed_self _ hx, codeRegion, signed_signed_bipMul, ownBit]
  | codeB => rw [superposedTerm, hchips, fadd_signed_self _ hx, codeRegion, signed_signed_bipMul, ownBit]

/-- Where they differ, the two transmitters cancel. -/
theorem superposedTerm_of_differ
    (hdiffer : bipMul (s.bitAt .codeA k) (s.bitAt .codeB k) ≠ bipMul α β) (c : Bool) :
    Leans c (superposedTerm own s α β k n) := by
  have hchips := (bipMul_eq_bipMul_iff α β _ _).not.mpr hdiffer
  rw [superposedTerm, fadd_signed_opposite hchips hx]
  exact leans_fmul_signed_posZero c _ hx

end

/-- What DEMOD with either code multiplies, sample by sample, where INTF holds the message `β` under CODEB. -/
theorem superposedTerm_of_interference {s : State} {β : Nat → Bool} {q : Nat}
    (hintf : s.elem .intf q = some (signed
      (bipMul (β (q / s.ns.toNat / s.lenOf .codeA)) (s.bitAt .codeB (q / s.ns.toNat % s.lenOf .codeA)))
      (s.sampleAt .splus (q % s.ns.toNat)))) (own : CodeSel) :
    fmul (s.sampleAt .splus (q % s.ns.toNat))
        (signed (s.bitAt (codeRegion own) (q / s.ns.toNat % s.lenOf .codeA)) (sentSample true .codeA s q)) =
      superposedTerm own s (s.bitAt .bits (q / s.ns.toNat / s.lenOf .codeA)) (β (q / s.ns.toNat / s.lenOf .codeA))
        (q / s.ns.toNat % s.lenOf .codeA) (q % s.ns.toNat) := by
  rw [sentSample, sampleAt_of_elem hintf]
  rfl

/-- Settles O44: of a symbol's terms those of the agreeing chips have the sign of the bit, and the others are
zero, so that the sum is that sign or, with no agreeing chip, a zero. -/
theorem twoTransmittersSuperpose : Obligations.TwoTransmittersSuperpose := by
  intro s β hi h hwrittenA hlenB hwrittenB hroom hresult hintfLen hintf
  obtain ⟨-, hcfg, hlenA, -⟩ := id h
  have hcodes : s.lenOf .codeB = s.lenOf .codeA := by
    rw [codeRegion] at hlenA
    omega
  rw [hcodes] at hintf
  obtain ⟨a, b, hspread, hmodulate, htx⟩ := exec_transmit (intf := true) hi h hroom fun _ =>
    ⟨hintfLen, fun k hk => by simp [hintf k (hintfLen ▸ hk)]⟩
  refine ⟨a, b, hspread, hmodulate, fun own => ?_⟩
  have hlen : (s.lenOf (codeRegion own) : Int) = s.sf.toInt := by cases own <;> assumption
  have hwritten : Written s (codeRegion own) (s.lenOf (codeRegion own)) := by cases own <;> assumption
  obtain ⟨c, hdemod, herr, hresultLen, hdecisions⟩ := htx.exec_demod hi h hresult hlen fun _ => hwritten
  refine ⟨c, hdemod, herr, hresultLen, fun i hlt => ?_⟩
  have hdecide {d : Bool} := htx.decision_eq (c := d) hi h hlen hlt
    (term := superposedTerm own s (s.bitAt .bits i) (β i)) fun q hq hqi => by
      rw [← hqi]
      exact superposedTerm_of_interference (hintf q (hintfLen ▸ hq)) own
  rw [hdecisions i hlt]
  refine ⟨fun ⟨k, hk, hagree⟩ => ?agree, fun hdiffer => ?differ⟩
  case agree =>
    obtain ⟨n, hn, hsquare⟩ := exists_carrier_square_ne_zero hi hcfg
    have hown : decision (correlationAt b (despreadAt own .tx b) i) = ownBit own (s.bitAt .bits i) (β i) := by
      refine hdecide (fun k' _ n' hn' => ?leans) fun _ => ⟨k, hk, n, hn, ?nonzero⟩
      case leans =>
        have hx := isFinite_carrier hi hn'
        by_cases hchips : bipMul (s.bitAt .codeA k') (s.bitAt .codeB k') = bipMul (s.bitAt .bits i) (β i)
        · rw [superposedTerm_of_agree own hx hchips]
          exact (fmul_signed_double _ hx).1
        · exact superposedTerm_of_differ own hx hchips _
      case nonzero =>
        have hx := isFinite_carrier hi hn
        rw [superposedTerm_of_agree own hx hagree]
        exact (fmul_signed_double _ hx).2 hsquare
    rw [hown]
    cases own <;> rfl
  case differ =>
    rw [hdecide (fun k hk n hn => superposedTerm_of_differ own (isFinite_carrier hi hn) (hdiffer k hk) false)
      (by simp)]

end Sys2Proof.Machine
end

section
/-! The engine's turn and its completion (60_exceptions.md R233, R236 to R238): the latched command executes, an
illegal word is reported, an error changes the completion state alone, and the interrupt output follows DONE. -/

namespace Sys2Proof.Machine

/-! ### The engine's turn -/

theorem engineTurn_of_busy {s : State} (hb : s.busy = true) : engineTurn s = engineStep s := by
  rw [engineTurn, if_pos hb]

theorem engineStep_of_decode {s : State} {i : Instr} (h : decode s.cmd = .ok i) : engineStep s = exec i s := by
  rw [engineStep, h]

theorem engineStep_of_illegal {s : State} {e : DecodeError} (h : decode s.cmd = .error e) :
    engineStep s = .next (takeError (.illegal (illegalDetail e) (s.cmd.toNat % 65536)) s) := by
  simp only [engineStep, h, Nat.reducePow]

/-- With nothing pending the engine takes its turn (log entry 2). -/
theorem step_of_silent {s : State} (h : s.env.agenda = []) : step s = engineTurn s := by
  rw [step, takeTurn, h]

theorem decode_of_decodeTableWord {nbits w : Nat} {i : Instr} (h : decodeTableWord nbits w = some i) :
    decode (tableWord nbits w) = .ok i := by
  rw [decodeTableWord] at h
  split at h
  · next hdecode => rw [hdecode, Option.some.inj h]
  · cases h

/-- Settles O6: whichever way the engine comes to its turn, a busy block executes the command its latched word
decodes to. -/
theorem stepRunsTheLatchedCommand : Obligations.StepRunsTheLatchedCommand := by
  have hturn {s : State} {i : Instr} (hb : s.busy = true) (h : decode s.cmd = .ok i) :
      engineTurn s = exec i s := (engineTurn_of_busy hb).trans (engineStep_of_decode h)
  intro s i
  refine ⟨fun hb hdecode => ⟨fun hsilent => ?silent, fun rest hengine => ?engine⟩, fun nbits w h => ?fetched⟩
  case silent => rw [step_of_silent hsilent, hturn hb hdecode]
  case engine =>
    rw [step_of_agenda hengine]
    exact hturn (s := s.popInput) hb hdecode
  case fetched =>
    rw [step_of_agenda (ev := .engine) (rest := s.env.agenda) rfl]
    exact hturn (s := issue (tableWord nbits w) s) rfl (decode_of_decodeTableWord h)

/-! ### Illegal words (R233) -/

theorem toNat_opcodeField (w : Word) : (opcodeField w).toNat = w.toNat % 256 := by
  rw [opcodeField, BitVec.extractLsb'_toNat, Nat.shiftRight_zero]

theorem toNat_rsvField (w : Word) : (rsvField w).toNat = w.toNat / 65536 := by
  have hw := w.isLt
  rw [rsvField, BitVec.extractLsb'_toNat, Nat.shiftRight_eq_div_pow]
  omega

theorem toNat_row_pattern (i : Instr) : i.row.pattern.toNat = i.opcode.toNat := by
  have hopcode := i.opcode.isLt
  have hpattern : i.row.pattern = BitVec.ofNat 64 i.opcode.toNat := by
    rw [ofNat_eq_wordOfFields hopcode]
    simp [Instr.row]
  rw [hpattern, BitVec.toNat_ofNat]
  omega

/-- A word whose opcode is that of no row. -/
theorem decode_of_no_row {w : Word} (h : ∀ r ∈ opcodeRows, r.pattern.toNat ≠ w.toNat % 256) :
    decode w = .error .reservedOpcode := by
  cases hcommand : commandOf (opcodeField w) (optField w) with
  | none => rw [decode, hcommand]
  | some found =>
    obtain ⟨options, i⟩ := found
    obtain ⟨hopcode, -⟩ := commandOf_eq_some hcommand
    refine absurd ?_ (h i.row (row_mem_opcodeRows i))
    rw [toNat_row_pattern, ← hopcode, toNat_opcodeField]

/-- Where a row has the word's opcode, the check of `RSV` comes before that of the option bits. -/
theorem decode_of_row {w : Word} {i : Instr} (h : i.row.pattern.toNat = w.toNat % 256) :
    opcodeField w = i.opcode ∧
    (rsvField w ≠ 0 → decode w = .error .rsvNonzero) ∧
    (rsvField w = 0 → optField w &&& ~~~i.options ≠ 0 → decode w = .error .reservedOption) := by
  have hopcode : opcodeField w = i.opcode := by
    refine BitVec.eq_of_toNat_eq ?_
    rw [toNat_opcodeField, ← h, toNat_row_pattern]
  obtain ⟨k, hcommand, -⟩ := commandOf_opcode i (optField w)
  rw [← hopcode] at hcommand
  refine ⟨hopcode, fun hrsv => ?_, fun hrsv hopt => ?_⟩
  · simp only [decode, hcommand, if_pos hrsv]
  · simp only [decode, hcommand, hrsv, ne_eq, not_true, if_false, if_pos hopt]

/-- Settles O3: the decoder names the first fault of the word, and the engine reports it with its detail. -/
theorem illegalWordsCompleteWithIllegalCommand : Obligations.IllegalWordsCompleteWithIllegalCommand := by
  intro s hb hsilent
  rw [step_of_silent hsilent, engineTurn_of_busy hb]
  refine ⟨fun hrows => engineStep_of_illegal (e := .reservedOpcode) (decode_of_no_row hrows),
    fun r hr hpattern => ?_⟩
  obtain ⟨i, rfl⟩ := exists_row_of_mem hr
  obtain ⟨hopcode, hrsvNonzero, hreserved⟩ := decode_of_row hpattern
  have hrsv : rsvField s.cmd = 0 ↔ s.cmd.toNat / 65536 = 0 := by
    rw [← toNat_rsvField, ← BitVec.toNat_inj]
    rfl
  refine ⟨fun hne => ?rsv, fun hzero hspells => ?option⟩
  case rsv => exact engineStep_of_illegal (e := .rsvNonzero) (hrsvNonzero (mt hrsv.mp hne))
  case option =>
    refine engineStep_of_illegal (e := .reservedOption) (hreserved (hrsv.mpr hzero) fun hopt => hspells ?_)
    exact beq_iff_eq.mp ((spells_row i s.cmd).mpr ⟨hrsv.mpr hzero, hopt, hopcode⟩)

/-! ### Completion -/

/-- Settles O9: a command that reports an error has made no change but its draws and the completion bits. -/
theorem errorsChangeOnlyCompletionState : Obligations.ErrorsChangeOnlyCompletionState := by
  intro i s t h herr
  obtain ⟨u, -, rfl⟩ | ⟨e, env, he, rfl⟩ := exec_cases h
  · cases herr
  · exact ⟨e, he, rfl, rfl, rfl, rfl⟩

/-! ### Writes of CMD and the interrupt output -/

/-- Settles O51: the write of CMD is the issue of R236. -/
theorem cmdWriteIssues : Obligations.CmdWriteIssues :=
  fun _ _ hb => busWrite_csr hb .cmd rfl

/-- A write at a register's index that completes is that register's write. -/
theorem csrWrite_of_busWrite (c : Csr) {w : Word} {s t : State}
    (h : busWrite (busAddr 0 c.index) w s = .next t) : csrWrite w s c = some t := by
  obtain ⟨hb, -⟩ := busWrite_eq_next _ _ _ _ h
  cases hwrite : csrWrite w s c with
  | none => rw [busWrite_csr_none hb c hwrite] at h; cases h
  | some u => rw [busWrite_csr hb c hwrite] at h; cases h; rfl

theorem irq_of_exec {i : Instr} {s t : State} (h : exec i s = .next t) : t.irq = s.irqEn := by
  obtain ⟨-, hdone, -⟩ := flagsHaveOneWriter i s t h
  obtain ⟨⟨hirqEn, -⟩, -⟩ := registersHaveTheirWriters i s t h
  rw [State.irq, hdone, hirqEn, Bool.and_true]

/-- Settles O53: every completion sets DONE, and each write clears DONE or IRQ_EN. -/
theorem interruptLevel : Obligations.InterruptLevel := by
  refine ⟨fun _ => rfl, fun _ _ _ => irq_of_exec, fun s t w h hbit => ?status, fun s t w h hbit => ?ctrl,
    fun s t w h => ?cmd, fun s t h => ?reset⟩
  case status =>
    cases csrWrite_of_busWrite .status h
    rw [State.irq, ackStatus_done, hbit, Bool.not_true, Bool.and_false, Bool.and_false]
  case ctrl =>
    cases csrWrite_of_busWrite .ctrl h
    rw [State.irq, hbit, Bool.false_and]
  case cmd =>
    cases csrWrite_of_busWrite .cmd h
    rw [State.irq, issue_done, Bool.and_false]
  case reset =>
    cases h
    rfl

end Sys2Proof.Machine
end

section
/-! The order of a command's checks (60_exceptions.md R235): a rule begins with the checks its list names, so the
first of them that fails is the error it raises. -/

namespace Sys2Proof.Machine

/-! ### Rules that begin with a list of checks -/

/-- A rule that raises the first error of `checks` whose condition holds, where one does (R235). -/
def Reports {α : Type} (checks : List (Bool × CmdError)) (m : CmdM α) : Prop :=
  ∀ e, firstFailing checks = some e → m = .error (.raise e)

theorem firstFailing_cons (c : Bool) (e : CmdError) (checks : List (Bool × CmdError)) :
    firstFailing ((c, e) :: checks) = if c then some e else firstFailing checks := by
  cases c <;> rfl

theorem Reports.nil {α : Type} (m : CmdM α) : Reports [] m :=
  fun _ he => nomatch he

/-- Nothing after the listed checks can hide the error they raise. -/
theorem Reports.bind {α β : Type} {checks : List (Bool × CmdError)} {m : CmdM α} (h : Reports checks m)
    (f : α → CmdM β) : Reports checks (m >>= f) := by
  intro e he
  rw [h e he, error_bind]

/-- A rule's own check, then those that follow it. -/
theorem Reports.raiseIf_bind {β : Type} {checks : List (Bool × CmdError)} {c d : Bool} {e : CmdError}
    {f : Unit → CmdM β} (hcd : c = d) (h : Reports checks (f ())) :
    Reports ((d, e) :: checks) (raiseIf c e >>= f) := by
  subst hcd
  intro x hx
  rw [firstFailing_cons] at hx
  cases c with
  | true => cases hx; rfl
  | false => exact h x hx

theorem Reports.raiseIf {c d : Bool} {e : CmdError} (hcd : c = d) : Reports [(d, e)] (raiseIf c e) := by
  have h := Reports.raiseIf_bind (e := e) hcd (Reports.nil (pure () : CmdM Unit))
  rwa [bind_pure] at h

theorem complete_of_reports {checks : List (Bool × CmdError)} {m : CmdM State} {s : State} {e : CmdError}
    (h : Reports checks m) (he : firstFailing checks = some e) : complete s m = .next (takeError e s) := by
  rw [h e he, complete_raise]

/-! ### The checks that rules share -/

theorem bne_eq_decide_ne {α : Type} [DecidableEq α] (a b : α) : (a != b) = decide (a ≠ b) := by
  rw [bne, beq_eq_decide, decide_not]

theorem reports_checkFields (s : State) : Reports (fieldRangeFails s) (checkFields s) := by
  intro e he
  rw [fieldRangeFails, firstFailing, List.find?_map] at he
  obtain ⟨c, hc, rfl⟩ := Option.map_eq_some_iff.mp he
  obtain ⟨k, hk, rfl⟩ := Option.map_eq_some_iff.mp hc
  obtain ⟨hout, i, hi, rfl, hbefore⟩ := List.find?_eq_some_iff_getElem.mp hk
  rw [List.getElem_finRange] at hout ⊢
  refine checkFields_of_first (by simpa using hout) fun j hj => ?_
  have hinside := hbefore j.val hj
  simpa using hinside

theorem reports_checkFrameLength (s : State) (n : Nat) :
    Reports (frameLengthFails n s) (checkFrameLength s n) :=
  .raiseIf_bind (bne_eq_decide_ne _ _) <| .raiseIf_bind rfl <| .raiseIf rfl

theorem reports_decodeBytes (src : BitSource) (s : State) :
    Reports (frameLengthFails (s.lenOf (bitRegion src)) s) (decodeBytes src s) :=
  (reports_checkFrameLength s _).bind _

theorem reports_correlateChecks (m : Nat) (s : State) : Reports (correlateFails m s) (correlateChecks m s) :=
  .raiseIf_bind (bne_eq_decide_ne _ _) <| .raiseIf_bind (bne_eq_decide_ne _ _) <| .raiseIf rfl

/-! ### The rules -/

theorem reports_configRule (s : State) : Reports (configFails s) (configRule s) := by
  have hsamples : carrierDegenerate (carrier s (roundHalfEven (sampleCount s)).toNat) =
      ((List.range (roundHalfEven (sampleCount s)).toNat).any (fun n => !isFinite (carrierSample s n)) ||
        isZero (norm (carrier s (roundHalfEven (sampleCount s)).toNat))) := by
    rw [carrierDegenerate, carrier, List.any_map]
    rfl
  simp only [configRule, configInputs, configCount, bind_assoc, pure_bind]
  exact .raiseIf_bind rfl <| .raiseIf_bind rfl <| .raiseIf_bind rfl <| .raiseIf_bind rfl <|
    .raiseIf_bind rfl <| .raiseIf_bind rfl <| .raiseIf_bind rfl <| .raiseIf_bind rfl <|
    .raiseIf_bind rfl <| .raiseIf_bind hsamples <| .nil _

theorem reports_modulateStart (noise intf diag : Bool) (gsrc : GaussSource) (s : State) :
    Reports (errorChecks (.modulate noise intf diag gsrc) s) (modulateStart noise intf gsrc s) := by
  have hinterference : (intf && s.lenOf .intf != modulateLength s) =
      (intf && decide (s.lenOf .intf ≠ s.lenOf .chips * s.ns.toNat)) := by
    rw [bne_eq_decide_ne, modulateLength]
  have hnoise : (noise && gsrc == .gnoise && s.lenOf .gnoise != modulateLength s) =
      (noise && decide (gsrc = .gnoise) && decide (s.lenOf .gnoise ≠ s.lenOf .chips * s.ns.toNat)) := by
    rw [bne_eq_decide_ne, beq_eq_decide, modulateLength]
  have hchecks : Reports (errorChecks (.modulate noise intf diag gsrc) s)
      (modulateChecks noise intf gsrc s) :=
    .raiseIf_bind rfl <| .raiseIf_bind rfl <| .raiseIf_bind hinterference <| .raiseIf hnoise
  exact hchecks.bind _

theorem reports_demodRule (sel : CodeSel) (x : WaveSel) (s : State) :
    Reports (errorChecks (.demod sel x) s) (demodRule sel x s) :=
  .raiseIf_bind rfl <| .raiseIf_bind rfl <| .raiseIf_bind (bne_eq_decide_ne _ _) <|
    (reports_correlateChecks _ s).bind _

/-- Settles O15: each rule begins with its list of checks, and an error raised there is taken on the state it
found. -/
theorem firstFailingCheckIsReported : Obligations.FirstFailingCheckIsReported := by
  intro i s e he
  cases i with
  | nop | pnSeed => cases he
  | config => exact complete_of_reports (reports_configRule s) he
  | encode | checksum => exact complete_of_reports ((reports_checkFields s).bind _) he
  | decode src | compare src => exact complete_of_reports ((reports_decodeBytes src s).bind _) he
  | pnGen dst src =>
    have h : Reports [unconfigured s] (pnGenRule dst src s) := .raiseIf_bind rfl (.nil _)
    exact complete_of_reports h he
  | spread sel =>
    have h : Reports (errorChecks (.spread sel) s) (spreadRule sel s) :=
      .raiseIf_bind rfl <| .raiseIf_bind rfl <| .raiseIf_bind rfl <| .nil _
    exact complete_of_reports h he
  | modulate noise intf diag gsrc =>
    exact exec_modulate_of_start_raises diag (reports_modulateStart noise intf diag gsrc s e he)
  | refgen x =>
    have h : Reports (errorChecks (.refgen x) s) (refgenRule x s) :=
      .raiseIf_bind rfl <| .raiseIf_bind (bne_eq_decide_ne _ _) <| .nil _
    exact complete_of_reports h he
  | despread sel x =>
    have h : Reports (errorChecks (.despread sel x) s) (despreadRule sel x s) :=
      .raiseIf_bind rfl <| .raiseIf_bind rfl <| .raiseIf_bind (bne_eq_decide_ne _ _) <| .nil _
    exact complete_of_reports h he
  | correlate =>
    have h : Reports (errorChecks .correlate s) (correlateRule s) :=
      .raiseIf_bind rfl <| (reports_correlateChecks _ s).bind _
    exact complete_of_reports h he
  | demod sel x => exact complete_of_reports (reports_demodRule sel x s) he
  | demodWrong x => exact complete_of_reports (reports_demodRule .codeB x s) he

end Sys2Proof.Machine
end

section
/-! Where a command stops the model (60_exceptions.md R240; 10_state.md R42): only at the read of an unwritten
element, and the elements a rule reads are those of a current sequence. -/

namespace Sys2Proof.Machine

/-! ### Reads of unwritten elements -/

/-- Some element of a region's current sequence, or of the NS samples of SPLUS, is unwritten (R34, R42). -/
def HasUnwritten (s : State) : Prop :=
  ∃ r k, s.elem r k = none ∧ (k < s.lenOf r ∨ r = .splus ∧ k < s.ns.toNat)

/-- The rule stops the model on `s` only as the read of an unwritten element. -/
def StopsAtUnwritten {α : Type} (s : State) (m : CmdM α) : Prop :=
  ∀ f, m = .error (.fault f) → f = .uninitRead ∧ HasUnwritten s

theorem StopsAtUnwritten.bind {α β : Type} {s : State} {m : CmdM α} {f : α → CmdM β}
    (hm : StopsAtUnwritten s m) (hf : ∀ a, m = .ok a → StopsAtUnwritten s (f a)) :
    StopsAtUnwritten s (m >>= f) := by
  intro x hx
  obtain hx | ⟨a, ha, hx⟩ := (bind_eq_error _ _ _).mp hx
  · exact hm x hx
  · exact hf a ha x hx

theorem stopsAtUnwritten_ok {α : Type} (s : State) (a : α) : StopsAtUnwritten s (.ok a : CmdM α) :=
  fun _ hf => nomatch hf

theorem StopsAtUnwritten.map {α β : Type} {s : State} {m : CmdM α} (h : StopsAtUnwritten s m) (g : α → β) :
    StopsAtUnwritten s (m.map g) := by
  intro f hf
  cases m with
  | error x =>
    cases hf
    exact h f rfl
  | ok a => cases hf

theorem stopsAtUnwritten_raiseIf (s : State) (c : Bool) (e : CmdError) :
    StopsAtUnwritten s (raiseIf c e) := by
  intro f hf
  obtain ⟨-, hraise⟩ := (raiseIf_eq_error c e _).mp hf
  cases hraise

/-- A check raises or passes; only what follows it can stop the model. -/
theorem stopsAtUnwritten_raiseIf_bind {β : Type} {s : State} {c : Bool} {e : CmdError} {f : Unit → CmdM β}
    (h : c = false → StopsAtUnwritten s (f ())) : StopsAtUnwritten s (raiseIf c e >>= f) :=
  (stopsAtUnwritten_raiseIf s c e).bind fun u hu => h ((raiseIf_eq_ok c e u).mp hu)

/-- In a canonical memory a sequence is not read because one of its elements is unwritten. -/
theorem exists_unwritten_of_readSeq {s : State} {r : Region} {n : Nat} {e : Stop} (hwf : s.mem.wf = true)
    (h : readSeq s r n = .error e) : ∃ k, k < n ∧ s.elem r k = none := by
  by_contra hnone
  have hwritten : Written s r n := fun k hk =>
    Option.isSome_iff_ne_none.mpr fun helem => hnone ⟨k, hk, helem⟩
  rw [readSeq_of_written s r n hwf hwritten] at h
  cases h

section Rules

variable {s : State}

/-! ### What reads no sequence -/

theorem stopsAtUnwritten_configRule : StopsAtUnwritten s (configRule s) := by
  have hinputs : StopsAtUnwritten s (configInputs s) :=
    stopsAtUnwritten_raiseIf_bind fun _ => stopsAtUnwritten_raiseIf_bind fun _ =>
    stopsAtUnwritten_raiseIf_bind fun _ => stopsAtUnwritten_raiseIf_bind fun _ =>
    stopsAtUnwritten_raiseIf_bind fun _ => stopsAtUnwritten_raiseIf _ _ _
  have hcount : StopsAtUnwritten s (configCount s) :=
    stopsAtUnwritten_raiseIf_bind fun _ => stopsAtUnwritten_raiseIf_bind fun _ =>
    stopsAtUnwritten_raiseIf_bind fun _ => stopsAtUnwritten_ok _ _
  exact hinputs.bind fun _ _ => hcount.bind fun _ _ =>
    stopsAtUnwritten_raiseIf_bind fun _ => stopsAtUnwritten_ok _ _

theorem stopsAtUnwritten_checkFields : StopsAtUnwritten s (checkFields s) := by
  intro f hf
  rw [checkFields] at hf
  split at hf <;> cases hf

/-- The scan reads character after character of the text. -/
theorem stopsAtUnwritten_scanText {j n : Nat} (hn : j + n ≤ s.lenOf .text) :
    StopsAtUnwritten s (scanText s j n) := by
  induction n generalizing j with
  | zero => exact stopsAtUnwritten_ok _ _
  | succ n ih =>
    rw [scanText]
    split
    · next helem =>
      intro f hf
      cases hf
      exact ⟨rfl, .text, j, helem, .inl (by omega)⟩
    · split
      · exact fun f hf => nomatch hf
      · exact (ih (by omega)).bind fun _ _ => stopsAtUnwritten_ok _ _

theorem textCount_le (s : State) : textCount s ≤ s.lenOf .text := by
  rw [textCount]
  split <;> omega

theorem stopsAtUnwritten_encodeRule : StopsAtUnwritten s (encodeRule s) :=
  stopsAtUnwritten_checkFields.bind fun _ _ =>
    (stopsAtUnwritten_scanText (by simpa using textCount_le s)).bind fun _ _ =>
      stopsAtUnwritten_raiseIf_bind fun _ => stopsAtUnwritten_ok _ _

theorem stopsAtUnwritten_correlateChecks (m : Nat) : StopsAtUnwritten s (correlateChecks m s) :=
  stopsAtUnwritten_raiseIf_bind fun _ => stopsAtUnwritten_raiseIf_bind fun _ => stopsAtUnwritten_raiseIf _ _ _

theorem stopsAtUnwritten_scaledNoise (noise : Bool) (u : State) (wave g : List F64) :
    StopsAtUnwritten s (scaledNoise noise u wave g) := by
  rw [scaledNoise]
  split
  · exact stopsAtUnwritten_raiseIf_bind fun _ => stopsAtUnwritten_raiseIf_bind fun _ => stopsAtUnwritten_ok _ _
  · exact stopsAtUnwritten_ok _ _

/-! ### Sequences -/

variable (hwf : s.mem.wf = true)

include hwf

theorem stopsAtUnwritten_readSeq {r : Region} {n : Nat} (hn : n ≤ s.lenOf r ∨ r = .splus ∧ n ≤ s.ns.toNat) :
    StopsAtUnwritten s (readSeq s r n) := by
  intro f hf
  obtain ⟨k, hk, helem⟩ := exists_unwritten_of_readSeq hwf hf
  cases readSeq_error s r n _ hf
  exact ⟨rfl, r, k, helem, hn.imp hk.trans_le (And.imp_right hk.trans_le)⟩

theorem stopsAtUnwritten_readAll (r : Region) : StopsAtUnwritten s (readAll s r) :=
  stopsAtUnwritten_readSeq hwf (.inl le_rfl)

theorem stopsAtUnwritten_readSplus (chips : Nat) : StopsAtUnwritten s (readSplus s chips) :=
  stopsAtUnwritten_readSeq hwf (.inr ⟨rfl, by split <;> omega⟩)

/-! ### The rules -/

theorem stopsAtUnwritten_decodeBytes (src : BitSource) : StopsAtUnwritten s (decodeBytes src s) := by
  have hlength : StopsAtUnwritten s (checkFrameLength s (s.lenOf (bitRegion src))) :=
    stopsAtUnwritten_raiseIf_bind fun _ => stopsAtUnwritten_raiseIf_bind fun _ =>
    stopsAtUnwritten_raiseIf _ _ _
  exact hlength.bind fun _ _ => (stopsAtUnwritten_readAll hwf _).bind fun _ _ => stopsAtUnwritten_ok _ _

theorem stopsAtUnwritten_textDiffers (dtext : List Nat) : StopsAtUnwritten s (textDiffers dtext s) := by
  rw [textDiffers]
  split
  · split
    · exact stopsAtUnwritten_ok _ _
    · exact (stopsAtUnwritten_readAll hwf _).bind fun _ _ => stopsAtUnwritten_ok _ _
  · exact stopsAtUnwritten_ok _ _

theorem stopsAtUnwritten_compareRule (src : BitSource) : StopsAtUnwritten s (compareRule src s) :=
  (stopsAtUnwritten_decodeBytes hwf src).bind fun _ _ =>
    (stopsAtUnwritten_textDiffers hwf _).bind fun _ _ => stopsAtUnwritten_ok _ _

theorem stopsAtUnwritten_spreadRule (sel : CodeSel) : StopsAtUnwritten s (spreadRule sel s) :=
  stopsAtUnwritten_raiseIf_bind fun _ => stopsAtUnwritten_raiseIf_bind fun _ =>
    stopsAtUnwritten_raiseIf_bind fun _ => (stopsAtUnwritten_readAll hwf _).bind fun _ _ =>
      (stopsAtUnwritten_readSeq hwf (.inl (by split <;> omega))).bind fun _ _ => stopsAtUnwritten_ok _ _

theorem stopsAtUnwritten_refgenRule (x : WaveSel) : StopsAtUnwritten s (refgenRule x s) :=
  stopsAtUnwritten_raiseIf_bind fun _ => stopsAtUnwritten_raiseIf_bind fun _ =>
    (stopsAtUnwritten_readSplus hwf _).bind fun _ _ => stopsAtUnwritten_ok _ _

theorem stopsAtUnwritten_despreadData (sel : CodeSel) (x : WaveSel) :
    StopsAtUnwritten s (despreadData sel x s) :=
  (stopsAtUnwritten_readSeq hwf (.inl (Nat.min_le_left _ _))).bind fun _ _ =>
    (stopsAtUnwritten_readAll hwf _).bind fun _ _ => stopsAtUnwritten_ok _ _

theorem stopsAtUnwritten_despreadRule (sel : CodeSel) (x : WaveSel) :
    StopsAtUnwritten s (despreadRule sel x s) :=
  stopsAtUnwritten_raiseIf_bind fun _ => stopsAtUnwritten_raiseIf_bind fun _ =>
    stopsAtUnwritten_raiseIf_bind fun _ => (stopsAtUnwritten_despreadData hwf sel x).bind fun _ _ =>
      stopsAtUnwritten_ok _ _

/-- REF is read over the despread length, which its own length has been checked against (R201). -/
theorem stopsAtUnwritten_readRef {m : Nat} (h : correlateChecks m s = .ok ()) :
    StopsAtUnwritten s (readSeq s .ref m) := by
  obtain ⟨-, hlen, -⟩ := (correlateChecks_eq_ok m s ()).mp h
  exact stopsAtUnwritten_readSeq hwf (.inl hlen.ge)

theorem stopsAtUnwritten_correlateRule : StopsAtUnwritten s (correlateRule s) :=
  stopsAtUnwritten_raiseIf_bind fun _ => (stopsAtUnwritten_correlateChecks _).bind fun _ hchecks =>
    (stopsAtUnwritten_readRef hwf hchecks).bind fun _ _ => (stopsAtUnwritten_readAll hwf .desp).bind fun _ _ =>
      stopsAtUnwritten_ok _ _

theorem stopsAtUnwritten_demodRule (sel : CodeSel) (x : WaveSel) : StopsAtUnwritten s (demodRule sel x s) :=
  stopsAtUnwritten_raiseIf_bind fun _ => stopsAtUnwritten_raiseIf_bind fun _ =>
    stopsAtUnwritten_raiseIf_bind fun _ => (stopsAtUnwritten_correlateChecks _).bind fun _ hchecks =>
      (stopsAtUnwritten_despreadData hwf sel x).bind fun _ _ =>
        (stopsAtUnwritten_readRef hwf hchecks).bind fun _ _ => stopsAtUnwritten_ok _ _

/-! ### MODULATE -/

theorem stopsAtUnwritten_noiseDraw {gsrc : GaussSource} {m : Nat} (h : gsrc = .gnoise → s.lenOf .gnoise = m) :
    StopsAtUnwritten s (noiseDraw gsrc m s) := by
  cases gsrc with
  | internal => exact stopsAtUnwritten_ok _ _
  | gnoise => exact (stopsAtUnwritten_readSeq hwf (.inl (h rfl).ge)).map _

theorem stopsAtUnwritten_modulateStart (noise intf : Bool) (gsrc : GaussSource) :
    StopsAtUnwritten s (modulateStart noise intf gsrc s) := by
  have hchecks : StopsAtUnwritten s (modulateChecks noise intf gsrc s) :=
    stopsAtUnwritten_raiseIf_bind fun _ => stopsAtUnwritten_raiseIf_bind fun _ =>
    stopsAtUnwritten_raiseIf_bind fun _ => stopsAtUnwritten_raiseIf _ _ _
  refine hchecks.bind fun _ hpass => (stopsAtUnwritten_readAll hwf _).bind fun _ _ =>
    (stopsAtUnwritten_readSplus hwf _).bind fun _ _ => ?_
  obtain ⟨-, -, -, hgnoise⟩ := (modulateChecks_eq_ok noise intf gsrc s ()).mp hpass
  dsimp only
  split
  · next hnoise =>
    exact stopsAtUnwritten_raiseIf_bind fun _ => stopsAtUnwritten_raiseIf_bind fun _ =>
      (stopsAtUnwritten_noiseDraw hwf (hgnoise hnoise)).bind fun ⟨_, _⟩ _ => stopsAtUnwritten_ok _ _
  · exact stopsAtUnwritten_ok _ _

/-- INTF is read over the waveform's length, which its own length has been checked against (R181). -/
theorem stopsAtUnwritten_modulateFinish {intf : Bool} (hintf : intf = true → s.lenOf .intf = modulateLength s)
    (noise diag : Bool) (m : Modulated) :
    StopsAtUnwritten s (modulateFinish noise intf diag m s) := by
  have hlen : (if intf then modulateLength s else 0) ≤ s.lenOf .intf := by
    split
    · next h => exact (hintf h).ge
    · exact Nat.zero_le _
  exact (stopsAtUnwritten_scaledNoise noise s _ _).bind fun ⟨_, _⟩ _ =>
    (stopsAtUnwritten_readSeq hwf (.inl hlen)).bind fun _ _ => stopsAtUnwritten_ok _ _

/-- MODULATE reads on after the draw in the state with the draw made, whose block is the one it started on. -/
theorem exec_modulate_stops (noise intf diag : Bool) (gsrc : GaussSource) :
    ∃ u m, exec (.modulate noise intf diag gsrc) s = complete u m ∧ StopsAtUnwritten s m := by
  cases hstart : modulateStart noise intf gsrc s with
  | error e =>
    refine ⟨s, .error e, by rw [exec, execModulate, hstart], fun f hf => ?_⟩
    cases hf
    exact stopsAtUnwritten_modulateStart hwf noise intf gsrc f hstart
  | ok p =>
    refine ⟨p.2, _, exec_modulate_of_start diag hstart, ?_⟩
    obtain ⟨hchecks, -⟩ := modulateStart_reads hstart
    obtain ⟨-, -, hintf, -⟩ := (modulateChecks_eq_ok noise intf gsrc s ()).mp hchecks
    rw [modulateStart_state hstart]
    exact stopsAtUnwritten_modulateFinish (s := { s with env := p.2.env }) hwf hintf noise diag p.1

/-! ### Every command -/

/-- A command is the completion of a rule that stops the model only at an unwritten element. -/
theorem exec_stops (i : Instr) : ∃ u m, exec i s = complete u m ∧ StopsAtUnwritten s m := by
  cases i with
  | nop | pnSeed => exact ⟨s, _, rfl, stopsAtUnwritten_ok s _⟩
  | config => exact ⟨s, _, rfl, stopsAtUnwritten_configRule⟩
  | encode => exact ⟨s, _, rfl, stopsAtUnwritten_encodeRule⟩
  | decode src =>
    exact ⟨s, _, rfl, (stopsAtUnwritten_decodeBytes hwf src).bind fun _ _ => stopsAtUnwritten_ok s _⟩
  | checksum => exact ⟨s, _, rfl, stopsAtUnwritten_checkFields.bind fun _ _ => stopsAtUnwritten_ok s _⟩
  | compare src => exact ⟨s, _, rfl, stopsAtUnwritten_compareRule hwf src⟩
  | pnGen dst src =>
    exact ⟨s, pnGenRule dst src s, rfl, stopsAtUnwritten_raiseIf_bind fun _ => stopsAtUnwritten_ok s _⟩
  | spread sel => exact ⟨s, _, rfl, stopsAtUnwritten_spreadRule hwf sel⟩
  | modulate noise intf diag gsrc => exact exec_modulate_stops hwf noise intf diag gsrc
  | refgen x => exact ⟨s, _, rfl, stopsAtUnwritten_refgenRule hwf x⟩
  | despread sel x => exact ⟨s, _, rfl, stopsAtUnwritten_despreadRule hwf sel x⟩
  | correlate => exact ⟨s, _, rfl, stopsAtUnwritten_correlateRule hwf⟩
  | demod sel x => exact ⟨s, _, rfl, stopsAtUnwritten_demodRule hwf sel x⟩
  | demodWrong x => exact ⟨s, _, rfl, stopsAtUnwritten_demodRule hwf .codeB x⟩

end Rules

/-- Settles O11: completing a rule stops the model where the rule does, and refuses nothing. -/
theorem commandsFaultOnlyOnUnwrittenElements : Obligations.CommandsFaultOnlyOnUnwrittenElements := by
  intro i s hwf
  obtain ⟨u, m, hexec, hstops⟩ := exec_stops hwf i
  rw [hexec]
  exact ⟨fun f hf => hstops f ((complete_eq_fault u m f).mp hf), complete_ne_refused u m⟩

end Sys2Proof.Machine
end

section
/-! The host while a command is pending (70_reset_and_hazards.md R262, R275; 10_state.md R22): it may read STATUS
and ID and nothing else, and however often it reads them the command executes on the block as it was. -/

namespace Sys2Proof.Machine

/-! ### The addresses of STATUS and ID -/

/-- An address is its region number and its index (R72). -/
theorem busAddr_addrRegion_addrIndex (a : BusAddr) : busAddr (addrRegion a) (addrIndex a) = a := by
  have hregion : addrRegion a < 16 := BitVec.isLt _
  have hindex : addrIndex a < 2 ^ 20 := BitVec.isLt _
  refine BitVec.eq_of_toNat_eq ?_
  rw [toNat_busAddr hregion hindex, addrRegion, addrIndex, BitVec.extractLsb'_toNat,
    BitVec.extractLsb'_toNat, Nat.shiftRight_eq_div_pow, Nat.shiftRight_zero]
  omega

/-- The places readable while BUSY = 1 are the two registers that R262 names, each at its one address. -/
theorem readableWhileBusy_iff (a : BusAddr) :
    readableWhileBusy a = true ↔ a = 0x000002 ∨ a = 0x000000 := by
  constructor
  · intro h
    rw [readableWhileBusy, Bool.and_eq_true, Bool.or_eq_true, beq_iff_eq, beq_iff_eq, beq_iff_eq] at h
    obtain ⟨hregion, hstatus | hid⟩ := h
    · left
      rw [← busAddr_addrRegion_addrIndex a, hregion, index_of_csrOf hstatus]
      rfl
    · right
      rw [← busAddr_addrRegion_addrIndex a, hregion, index_of_csrOf hid]
      rfl
  · rintro (rfl | rfl) <;> decide

/-! ### Transactions while BUSY = 1 -/

theorem busRead_status (s : State) : busRead 0x000002 s = answer s.statusWord s := by
  have hreadable : readableWhileBusy 0x000002 = true := (readableWhileBusy_iff _).mpr (.inl rfl)
  rw [busRead, hreadable, Bool.not_true, Bool.and_false]
  rfl

theorem busRead_id (s : State) : busRead 0x000000 s = answer idWord s := by
  have hreadable : readableWhileBusy 0x000000 = true := (readableWhileBusy_iff _).mpr (.inr rfl)
  rw [busRead, hreadable, Bool.not_true, Bool.and_false]
  rfl

theorem busRead_of_busy {a : BusAddr} {s : State} (hb : s.busy = true) (h : readableWhileBusy a = false) :
    busRead a s = .fault .busyHazard := by
  simp [busRead, hb, h]

theorem busWrite_of_busy (a : BusAddr) (w : Word) {s : State} (hb : s.busy = true) :
    busWrite a w s = .fault .busyHazard := by
  rw [busWrite, if_pos hb]

/-- Settles O45: STATUS and ID answer their words, and no other address is readable while BUSY = 1. -/
theorem busyAllowsOnlyStatusAndId : Obligations.BusyAllowsOnlyStatusAndId := by
  intro s hb
  refine ⟨busRead_status s, busRead_id s, fun a hstatus hid => busRead_of_busy hb ?_,
    fun a w => busWrite_of_busy a w hb⟩
  rw [Bool.eq_false_iff, ne_eq, readableWhileBusy_iff, not_or]
  exact ⟨hstatus, hid⟩

/-! ### Polls -/

/-- A poll completes on every block, whatever is pending there. -/
theorem busRead_of_readable {a : BusAddr} (h : readableWhileBusy a = true) (s : State) :
    ∃ w, busRead a s = answer w s := by
  obtain rfl | rfl := (readableWhileBusy_iff a).mp h
  · exact ⟨_, busRead_status s⟩
  · exact ⟨_, busRead_id s⟩

/-- Each pending input of a host that only polls is the read of a readable place. -/
theorem eq_hostRead_of_onlyPolls {s : State} {ev : Event} (h : onlyPolls s = true) (hmem : ev ∈ s.env.agenda) :
    ∃ n a, ev = .hostRead n ∧ s.covers n = true ∧ s.wordAddr n = some a ∧ readableWhileBusy a = true := by
  have hev := List.all_eq_true.mp h ev hmem
  cases ev with
  | hostRead n =>
    obtain ⟨hcovers, hany⟩ := Bool.and_eq_true_iff.mp hev
    obtain ⟨a, hword, hreadable⟩ := (Option.any_eq_true _ _).mp hany
    exact ⟨n, a, rfl, hcovers, hword, hreadable⟩
  | hostWrite | engine | reset => cases hev

/-- The state after polls: the inputs `agenda` are still to come and `rdata` is the last word read. -/
def State.polled (s : State) (agenda : List Event) (rdata : Option Word) : State :=
  { s with env := { s.env with agenda := agenda, rdata := rdata } }

theorem polled_self {s : State} (h : s.env.agenda = []) : s.polled [] s.env.rdata = s := by
  rw [State.polled, ← h]

/-- Where the words of the block lie is fixed by the parameters, so what follows a poll is polls again. -/
theorem onlyPolls_polled {s : State} {ev : Event} {rest : List Event} (h : onlyPolls s = true)
    (hagenda : s.env.agenda = ev :: rest) (rdata : Option Word) : onlyPolls (s.polled rest rdata) = true := by
  rw [onlyPolls, hagenda, List.all_cons, Bool.and_eq_true] at h
  exact h.2

/-- The step of a poll takes it off the agenda and changes only the word read. -/
theorem step_of_onlyPolls {s : State} {ev : Event} {rest : List Event} (h : onlyPolls s = true)
    (hagenda : s.env.agenda = ev :: rest) : ∃ w, step s = .next (s.polled rest (some w)) := by
  obtain ⟨n, a, rfl, hcovers, hword, hreadable⟩ :=
    eq_hostRead_of_onlyPolls h (ev := ev) (by simp [hagenda])
  obtain ⟨w, hread⟩ := busRead_of_readable hreadable s.popInput
  have hnext : busRead a s.popInput = .next (s.polled rest (some w)) := by
    rw [hread, answer, State.popInput, hagenda]
    rfl
  refine ⟨w, (step_of_agenda hagenda).trans ?_⟩
  exact (hostAccess_eq_next busRead n s.popInput _).mpr (.inr ⟨hcovers, a, hword, hnext⟩)

/-! ### Runs -/

theorem run_succ_of_step {M : Host.Core} {s t : M.State} (h : M.step s = .next t) (k : Nat) :
    M.run (k + 1) s = M.run k t := by
  rw [Host.Core.run, h]

theorem run_one (M : Host.Core) (s : M.State) : M.run 1 s = M.step s := by
  rw [Host.Core.run]
  cases M.step s <;> rfl

/-- A run that goes through goes on with the step of the state it reached. -/
theorem run_succ_of_run {M : Host.Core} {k : Nat} {s u : M.State} (h : M.run k s = .next u) :
    M.run (k + 1) s = M.step u := by
  induction k generalizing s with
  | zero =>
    cases h
    exact run_one M u
  | succ k ih =>
    cases hstep : M.step s with
    | next t =>
      rw [run_succ_of_step hstep] at h ⊢
      exact ih h
    | fault | refused =>
      rw [Host.Core.run, hstep] at h
      cases h

/-- However many polls are pending, they all complete, and the block is what it was. -/
theorem run_of_onlyPolls {s : State} (h : onlyPolls s = true) :
    ∃ rdata, Sys2Proof.core.run s.env.agenda.length s = .next (s.polled [] rdata) := by
  induction hagenda : s.env.agenda generalizing s with
  | nil =>
    refine ⟨s.env.rdata, ?_⟩
    rw [polled_self hagenda]
    rfl
  | cons ev rest ih =>
    obtain ⟨w, hstep⟩ := step_of_onlyPolls h hagenda
    obtain ⟨rdata, hrun⟩ := ih (onlyPolls_polled h hagenda (some w)) rfl
    exact ⟨rdata, (run_succ_of_step (M := Sys2Proof.core) hstep rest.length).trans hrun⟩

/-- Settles O8: the polls run to a state with nothing pending whose block is the one they started on, and the
engine's turn there executes the latched command (log entry 2). -/
theorem engineExecutesAfterPolls : Obligations.EngineExecutesAfterPolls := by
  intro s i hb hpolls hdecode
  obtain ⟨rdata, hrun⟩ := run_of_onlyPolls hpolls
  have hturn : step (s.polled [] rdata) = exec i (s.polled [] rdata) := by
    rw [step_of_silent rfl,
      engineTurn_of_busy (s := s.polled [] rdata) hb, engineStep_of_decode (s := s.polled [] rdata) hdecode]
  exact ⟨s.polled [] rdata, hrun, rfl, rfl, (run_succ_of_run hrun).trans hturn⟩

end Sys2Proof.Machine
end
